-- ==== Sys2Proof/Word.lean ====
section
/-! DEFINITION. The words the hardware moves: a byte, a 32-bit word, a 16-bit port address (00_scope.md R11,
20_memory.md R80). -/

namespace Sys2Proof

/-- A byte, an unsigned integer 0..255 (R11). -/
abbrev Byte := BitVec 8

/-- A word, an unsigned 32-bit integer (R11). -/
abbrev Word := BitVec 32

/-- A byte address of the host port, 0x0000 to 0xFFFF (R80). -/
abbrev PortAddr := BitVec 16

end Sys2Proof
end

