-- ==== Sys2Proof/Config.lean ====
section
/-! DEFINITION. What one implementation fixes (the two parameters of 00_scope.md R9) and the free values: the values
the spec calls unspecified (93_implementation_defined.md U1). A free value has no body, so nothing in Lean can evaluate
it; it is applied to the draw counter of State, so that two occurrences need not agree. -/

namespace Sys2Proof

/-- The parameters of the hardware (R9): the capacities of `MSG` and of `FID` in bytes. -/
structure Params where
  msgSize : Nat
  fidSize : Nat
deriving DecidableEq, Repr

/-- The default parameters (R9). -/
def defaultParams : Params := { msgSize := 4096, fidSize := 256 }

namespace Config

/-- A buffer byte never written since reset (R325, U2, U6): the draw, then the byte's port address. Log 6. -/
opaque unwrittenByte : Nat → Nat → Byte

/-- An output byte that depends on an input byte never written since reset (R325, U6): the draw, then the output byte's
port address. Log 14. -/
opaque outputByte : Nat → Nat → Byte

/-- The partner of entry `n` in a cipher table whose key holds a byte never written (R54, R325): the draw, then `n`.
Log 14. -/
opaque tablePartner : Nat → Nat → Byte

/-- The cursor `j` after a payload under such a key (R325): the draw. Log 14. -/
opaque payloadCursor : Nat → Byte

/-- The word a read of an idle-only location returns while busy (R85, R88, U3). Log 4. -/
opaque busyWord : Nat → Word

/-- `S[n]` where the cipher table is unspecified (R55, U4): the draw, then `n`. Log 7. -/
opaque cipherByte : Nat → Nat → Byte

/-- The cursors where the cipher state is unspecified (R55, U4): the draw, then 0 for `i` and 1 for `j`. Log 7. -/
opaque cipherCursor : Nat → Nat → Byte

/-- The accumulators between digest computations (R52, U5): the draw, then 0..3 for `H0..H3`, 4..7 for `a..d`. Log 9. -/
opaque digestWord : Nat → Nat → Word

/-- `BLK[n]` between digest computations (R53, U5): the draw, then `n`. Log 9. -/
opaque digestBlockByte : Nat → Nat → Byte

/-- `NBYTES` between digest computations (R53, U5). Log 9. -/
opaque digestCount : Nat → BitVec 64

/-- `PENDING` while idle (R56). Log 10. -/
opaque pendingWord : Nat → Word

/-- The sequencer's position while idle (R56). Log 10. -/
opaque sequencerPosition : Nat → Nat

/-- The sequencer's temporaries while idle (R56): the draw, then the byte's place, the 16 bytes of the digest
temporary first, then the 32 of the data temporary, then the 16 of the key temporary. Log 10. -/
opaque sequencerByte : Nat → Nat → Byte

end Config

end Sys2Proof
end

