-- ==== Sys2Proof/Syntax.lean ====
section
/-! DEFINITION. The commands of the core, one constructor per row of the opcode table (30_encoding.md R111). -/

namespace Sys2Proof

/-- The operand selector `SEL` of `PAD` (R112): which password is padded. -/
inductive PasswordSel
  | user
  | owner
deriving DecidableEq, Repr

/-- The ten commands (R111). Every operand but `SEL` is implicit (R110). -/
inductive Instr
  | nop
  | digest
  | rc4Init
  | rc4Proc
  | pad (sel : PasswordSel)
  | deriveOwner
  | deriveFkey
  | deriveUser
  | objkey
  | encObj
deriving DecidableEq, Repr

end Sys2Proof
end

