-- ==== Sys2Proof/WellFormed.lean ====
section
/-! DEFINITION. Well-formedness. Every term of `Instr` is a legal command: its one operand is an inductive type with the
two values of the one-bit field `SEL` (30_encoding.md R112), so `Instr.wf` has nothing to refuse. What the spec does
constrain is the pair of parameters (00_scope.md R9) and the command word (R110), and these are checked here. -/

namespace Sys2Proof

/-- Each constructor is a legal command with every operand value (R111, R112). -/
def Instr.wf : Instr → Bool
  | .nop => true
  | .digest => true
  | .rc4Init => true
  | .rc4Proc => true
  | .pad .user => true
  | .pad .owner => true
  | .deriveOwner => true
  | .deriveFkey => true
  | .deriveUser => true
  | .objkey => true
  | .encObj => true

/-- `MSG_SIZE` is a multiple of 4 with `64 <= MSG_SIZE <= 0xF000` (R9). -/
abbrev Params.msgSizeOk (p : Params) : Prop := p.msgSize % 4 = 0 ∧ 64 ≤ p.msgSize ∧ p.msgSize ≤ 0xF000

/-- `FID_SIZE` is a multiple of 4 with `16 <= FID_SIZE <= 256` (R9). -/
abbrev Params.fidSizeOk (p : Params) : Prop := p.fidSize % 4 = 0 ∧ 16 ≤ p.fidSize ∧ p.fidSize ≤ 256

/-- The parameters are legal (R9). -/
abbrev Params.wf (p : Params) : Prop := p.msgSizeOk ∧ p.fidSizeOk

/-- `RSV`, bits 31:9 of a command word, must be 0 (R110). -/
abbrev reservedBitsClear (w : Word) : Prop := w.extractLsb 31 9 = 0

/-- `SEL`, bit 8, must be 0 unless `OP = 0x04` (R110). -/
abbrev selectorBitLegal (w : Word) : Prop := w.extractLsb 7 0 = 0x04#8 ∨ w.extractLsb 8 8 = 0

/-- `OP`, bits 7:0, is one of the ten operation codes (R111). -/
abbrev opcodeAssigned (w : Word) : Prop :=
  w.extractLsb 7 0 ∈ [0x00#8, 0x01#8, 0x02#8, 0x03#8, 0x04#8, 0x10#8, 0x11#8, 0x12#8, 0x20#8, 0x21#8]

/-- A command word is well formed (R110, R111). -/
abbrev commandWordWf (w : Word) : Prop := reservedBitsClear w ∧ selectorBitLegal w ∧ opcodeAssigned w

end Sys2Proof
end

