-- ==== Sys2Proof/Decode.lean ====
section
/-! DEFINITION. Decoding and encoding of command words (30_encoding.md R110 to R118). Decoding is total on 32-bit words
and refuses by name; the encoder is written from the table of words in R111. -/

namespace Sys2Proof

/-- Why a word is illegal (R114): each is answered with `ERR_OPCODE` by a submission. -/
inductive DecodeError
  /-- a bit of `RSV` is set -/
  | reservedBitSet
  /-- `SEL = 1` with `OP` other than 0x04 -/
  | selectorNotAllowed
  /-- `OP` is none of the ten codes -/
  | opcodeNotAssigned
deriving DecidableEq, Repr

/-- The field `OP` (R110). -/
def opField (w : Word) : Byte := w.extractLsb 7 0

/-- The field `SEL` (R110). -/
def selField (w : Word) : BitVec 1 := w.extractLsb 8 8

/-- The field `RSV` (R110). -/
def rsvField (w : Word) : BitVec 23 := w.extractLsb 31 9

/-- `SEL = 0` selects the user password, `SEL = 1` the owner password (R112). -/
def selOfBit (b : BitVec 1) : PasswordSel := if b = 0 then .user else .owner

/-- The commands without a selector, by operation code (the case list of R118). -/
def plainCommand (op : Byte) : Except DecodeError Instr :=
  if op = 0x00 then .ok .nop
  else if op = 0x01 then .ok .digest
  else if op = 0x02 then .ok .rc4Init
  else if op = 0x03 then .ok .rc4Proc
  else if op = 0x10 then .ok .deriveOwner
  else if op = 0x11 then .ok .deriveFkey
  else if op = 0x12 then .ok .deriveUser
  else if op = 0x20 then .ok .objkey
  else if op = 0x21 then .ok .encObj
  else .error .opcodeNotAssigned

/-- `decode(w)` of R118, its tests in their order. -/
def decode (w : Word) : Except DecodeError Instr :=
  if rsvField w ≠ 0 then .error .reservedBitSet
  else if opField w = 0x04 then .ok (.pad (selOfBit (selField w)))
  else if selField w ≠ 0 then .error .selectorNotAllowed
  else plainCommand (opField w)

/-- The word of each command (R111). -/
def encode : Instr → Word
  | .nop => 0x00000000
  | .digest => 0x00000001
  | .rc4Init => 0x00000002
  | .rc4Proc => 0x00000003
  | .pad .user => 0x00000004
  | .pad .owner => 0x00000104
  | .deriveOwner => 0x00000010
  | .deriveFkey => 0x00000011
  | .deriveUser => 0x00000012
  | .objkey => 0x00000020
  | .encObj => 0x00000021

/-- The command the decoder reads from the word whose bits are `w`, of which the table gives `nbits` and the rest are
0. A command is one 32-bit word (R116), so a number of more bits is no command word. -/
def decodeTableWord (nbits w : Nat) : Option Instr :=
  if w % 2 ^ nbits < 2 ^ 32 then (decode (BitVec.ofNat 32 (w % 2 ^ nbits))).toOption else none

end Sys2Proof
end

