-- ==== Sys2Proof/Machine/State.lean ====
section
/-! DEFINITION. The state of the machine: every piece of state 10_state.md gives the core (the table of R60), and the
three fields of the model's own that say what the environment does. Plain data throughout. -/

namespace Sys2Proof.Machine

/-- Why a step can stop. -/
inductive Fault
  /-- Raised by the core's turn in a state that is busy while `PENDING` is no legal command word. No run reaches such a
  state (acceptance writes `PENDING` with a word that decoded, R262), and the invariant of Safety.lean rules it out.
  Safe: the model stops where the spec gives no effect. Log 12. -/
  | pendingNotACommand
deriving DecidableEq, Repr

/-- Why an instruction has no meaning. -/
inductive Refusal
  /-- Raised by an arm of exec whose instruction is not modelled yet. Safe. No arm raises it in this model. -/
  | notModelled (mnemonic : String)
deriving DecidableEq, Repr

/-- The cipher state (10_state.md R54): a table of 256 bytes and two cursors. -/
structure CipherState where
  S : Vector Byte 256
  i : Byte
  j : Byte
deriving DecidableEq, Repr

/-- Four 32-bit accumulators (R52). -/
structure Accumulators where
  a : Word
  b : Word
  c : Word
  d : Word
deriving DecidableEq, Repr

/-- The digest state (R52, R53): running accumulators `H0..H3`, working accumulators `a..d`, the block buffer `BLK` and
the byte counter `NBYTES`. -/
structure DigestState where
  h : Accumulators
  work : Accumulators
  blk : Vector Byte 64
  nbytes : BitVec 64
deriving DecidableEq, Repr

/-- The sequencer's position and temporaries (R56). -/
structure Sequencer where
  position : Nat
  digestTmp : Vector Byte 16
  dataTmp : Vector Byte 32
  keyTmp : Vector Byte 16
deriving DecidableEq, Repr

/-- One event of the total order of 20_memory.md R94, but for acceptances, which coincide with the `CMD` write that
causes them. -/
inductive Event
  /-- the transaction `MemRead(addr, 4)` (R85) -/
  | read (addr : PortAddr)
  /-- the transaction `MemWrite(addr, 4, v)` (R86) -/
  | write (addr : PortAddr) (v : Word)
  /-- the reset input (R320) -/
  | reset
  /-- the core's own step: the completion of the command in execution, if there is one (R263) -/
  | core
deriving DecidableEq, Repr

/-- The errors of 60_exceptions.md R280. -/
inductive Error
  | busy
  | opcode
  | len
  | keylen
  | nocipher
  | addr
deriving DecidableEq, Repr

/-- The host-visible registers of the address map (20_memory.md R84). -/
inductive Reg
  | cmd
  | status
  | ctrl
  | id
  | proto
  | cap0
  | cap1
  | mlen
  | klen
  | upwlen
  | opwlen
  | fidlen
  | fklen
  | oklen
  | perm
  | objnum
  | gennum
deriving DecidableEq, Repr

/-- The byte buffers of the address map (R84). -/
inductive Buf
  | upw
  | opw
  | oval
  | uval
  | fkey
  | okey
  | dout
  | padout
  | key
  | fid
  | msg
deriving DecidableEq, Repr

/-- A mapped, aligned word of the address map: a register, or the four bytes of a buffer from an offset on. -/
inductive Location
  | reg (r : Reg)
  | buf (b : Buf) (offset : Nat)
deriving DecidableEq, Repr

/-- The state (10_state.md R60). -/
structure State where
  /-- `MSG_SIZE` and `FID_SIZE` (R9, R58): no step writes them. Log 8. -/
  params : Params
  /-- `CMD` (R35). -/
  cmd : Word
  /-- `STATUS.BUSY` (R36). -/
  busy : Bool
  /-- `STATUS.DONE` (R36). -/
  done : Bool
  /-- `STATUS.ERR` (R36). -/
  err : Bool
  /-- `STATUS.CVALID` (R36, R55). -/
  cvalid : Bool
  /-- `STATUS.ERRCODE` (R36). -/
  errcode : BitVec 4
  /-- `CTRL.IE_DONE` (R37). -/
  ieDone : Bool
  /-- `CTRL.IE_ERR` (R37). -/
  ieErr : Bool
  /-- `MLEN` (R31). -/
  mlen : Word
  /-- `KLEN` (R32). -/
  klen : Word
  /-- `UPWLEN` (R33). -/
  upwlen : Word
  /-- `OPWLEN` (R33). -/
  opwlen : Word
  /-- `FIDLEN` (R39). -/
  fidlen : Word
  /-- `FKLEN` (R40). -/
  fklen : Word
  /-- `OKLEN` (R40). -/
  oklen : Word
  /-- `PERM` (R41). -/
  perm : Word
  /-- `OBJNUM` (R41). -/
  objnum : BitVec 24
  /-- `GENNUM` (R41). -/
  gennum : BitVec 16
  /-- The byte buffers of R42 to R51, each byte at its port address (R83, R84). An address that is not listed holds a
  byte never written since reset (R325). Log 6. -/
  mem : List Host.Cell
  /-- `S`, `i`, `j` (R54). -/
  cipher : CipherState
  /-- `H0..H3`, `a..d`, `BLK`, `NBYTES` (R52, R53). -/
  digest : DigestState
  /-- `PENDING` (R56). -/
  pending : Word
  /-- The sequencer's position and temporaries (R56). -/
  seq : Sequencer
  /-- The model's own: the events still to come, the next one first (R94). Log 1. -/
  events : List Event
  /-- The model's own: the word the latest event returned to the host, if it was a read. Log 3. -/
  response : Option Word
  /-- The model's own: the counter the free values are applied to. Log 4. -/
  draws : Nat
deriving DecidableEq, Repr

/-- The machine right after reset (10_state.md R60, 70_reset_and_hazards.md R320), with the default parameters (R9).
Every buffer byte is never written. DESIGN CHOICE (log 5): the engine state that R60 leaves unspecified is zero here. -/
def State.reset : State where
  params := defaultParams
  cmd := 0
  busy := false
  done := false
  err := false
  cvalid := false
  errcode := 0
  ieDone := false
  ieErr := false
  mlen := 0
  klen := 0
  upwlen := 0
  opwlen := 0
  fidlen := 0
  fklen := 0
  oklen := 0
  perm := 0
  objnum := 0
  gennum := 0
  mem := []
  cipher := { S := Vector.replicate 256 0, i := 0, j := 0 }
  digest :=
    { h := { a := 0, b := 0, c := 0, d := 0 }
      work := { a := 0, b := 0, c := 0, d := 0 }
      blk := Vector.replicate 64 0
      nbytes := 0 }
  pending := 0
  seq :=
    { position := 0
      digestTmp := Vector.replicate 16 0
      dataTmp := Vector.replicate 32 0
      keyTmp := Vector.replicate 16 0 }
  events := []
  response := none
  draws := 0

end Sys2Proof.Machine
end

