-- ==== Sys2Proof/Machine/Ops.lean ====
section
/-! DEFINITION. The named operations the meanings share: byte order (00_scope.md R12), memory cells, reading and storing
buffer bytes, the free values, raising and clearing an error (60_exceptions.md R283, R287), and the events of a command's
life: acceptance (45_sequencer.md R262), completion (R263) and reset (70_reset_and_hazards.md R320). -/

namespace Sys2Proof.Machine

/-- What a meaning answers. -/
abbrev Result := Host.Outcome State Fault Refusal

/-! ### Byte order (R12, R82, R83) -/

/-- `le32(b)`, little-endian decode of the first four bytes of `b` (R12). -/
def le32 (b : List Byte) : Word := b.getD 3 0 ++ b.getD 2 0 ++ b.getD 1 0 ++ b.getD 0 0

/-- `bytes_le(v, n)`, the low byte first, the bits at and above `8n` discarded (R12). -/
def bytesLe (v n : Nat) : List Byte := (List.range n).map fun k => BitVec.ofNat 8 (v / 256 ^ k)

/-- `zeros(n)` (R11). -/
def zeros (n : Nat) : List Byte := List.replicate n 0

/-! ### Memory: cells listed at strictly rising addresses -/

/-- The canonical form: addresses strictly rising. An unlisted address has no value of its own (it was never written), so
every listed entry differs from it. -/
abbrev Memory.wf (m : List Host.Cell) : Prop := m.Pairwise fun c d => c.1 < d.1

/-- The byte written last at an address; `none` where nothing has been written since reset. -/
def Memory.read : List Host.Cell → Nat → Option Byte
  | [], _ => none
  | (k, b) :: rest, a => if k = a then some b else Memory.read rest a

/-- Write one byte, keeping the canonical form. -/
def Memory.write : List Host.Cell → Nat → Byte → List Host.Cell
  | [], a, b => [(a, b)]
  | (k, c) :: rest, a, b =>
    if a < k then (a, b) :: (k, c) :: rest
    else if k = a then (a, b) :: rest
    else (k, c) :: Memory.write rest a b

/-- Write bytes at successive addresses, the first at `a`. -/
def Memory.writeBytes : List Host.Cell → Nat → List Byte → List Host.Cell
  | m, _, [] => m
  | m, a, b :: bs => Memory.writeBytes (Memory.write m a b) (a + 1) bs

/-- The buffer byte at a port address, `none` if never written since reset. -/
def State.cell (s : State) (a : Nat) : Option Byte := Memory.read s.mem a

/-- The value a read of the buffer byte finds: what was written, or a free value (R325). -/
def State.byteAt (s : State) (a : Nat) : Byte := (s.cell a).getD (Config.unwrittenByte s.draws a)

/-- `n` bytes from the port address `a` on. -/
def State.bytesAt (s : State) (a n : Nat) : List Byte := (List.range n).map fun k => s.byteAt (a + k)

/-- Each of the `n` bytes from the port address `a` on was written since reset (R325). -/
def State.written (s : State) (a n : Nat) : Bool := (List.range n).all fun k => (s.cell (a + k)).isSome

/-- Store bytes from the port address `a` on. -/
def State.store (s : State) (a : Nat) (bs : List Byte) : State :=
  { s with mem := Memory.writeBytes s.mem a bs }

/-! ### Free values -/

/-- `n` output bytes from the port address `a` on of which nothing is known (R325, U6). Log 14. -/
def freeOutput (draw a n : Nat) : List Byte := (List.range n).map fun k => Config.outputByte draw (a + k)

/-- A cipher state nothing is known of (R55, U4). -/
def freeCipher (draw : Nat) : CipherState where
  S := Vector.ofFn fun n => Config.cipherByte draw n
  i := Config.cipherCursor draw 0
  j := Config.cipherCursor draw 1

/-- A digest state nothing is known of (R52, R53, U5). -/
def freeDigest (draw : Nat) : DigestState where
  h :=
    { a := Config.digestWord draw 0, b := Config.digestWord draw 1, c := Config.digestWord draw 2,
      d := Config.digestWord draw 3 }
  work :=
    { a := Config.digestWord draw 4, b := Config.digestWord draw 5, c := Config.digestWord draw 6,
      d := Config.digestWord draw 7 }
  blk := Vector.ofFn fun n => Config.digestBlockByte draw n
  nbytes := Config.digestCount draw

/-- A sequencer state nothing is known of (R56, U5). -/
def freeSequencer (draw : Nat) : Sequencer where
  position := Config.sequencerPosition draw
  digestTmp := Vector.ofFn fun n => Config.sequencerByte draw n
  dataTmp := Vector.ofFn fun n => Config.sequencerByte draw (16 + n)
  keyTmp := Vector.ofFn fun n => Config.sequencerByte draw (48 + n)

/-- The digest state after a digest computation: discarded (R52). -/
def State.discardDigest (s : State) : State := { s with digest := freeDigest s.draws }

/-- `(S, i, j) <- unspecified ; CVALID <- 0` (43_kdf.md R216, R218). -/
def State.loseCipher (s : State) : State := { s with cipher := freeCipher s.draws, cvalid := false }

/-- The values drawn from here on need not agree with those drawn before. -/
def State.nextDraw (s : State) : State := { s with draws := s.draws + 1 }

/-! ### Errors: the trap entry and the trap return of this hardware -/

/-- The code of an error in `ERRCODE` (R280). -/
def Error.code : Error → BitVec 4
  | .busy => 1
  | .opcode => 2
  | .len => 3
  | .keylen => 4
  | .nocipher => 5
  | .addr => 6

/-- `raise E` (R283): the first error is kept, nothing else is saved or changed. -/
def State.raise (s : State) (e : Error) : State :=
  if s.err then s else { s with err := true, errcode := e.code }

/-- The host clears the error (R287): `ERR <- 0`, `ERRCODE <- 0`. -/
def State.clearError (s : State) : State := { s with err := false, errcode := 0 }

/-- The host clears `DONE` (R36). -/
def State.clearDone (s : State) : State := { s with done := false }

/-! ### The life of a command -/

/-- Acceptance of the command word `w` (R262): one event, nothing else changes. -/
def State.accept (s : State) (w : Word) : State :=
  { s with cmd := w, pending := w, busy := true, done := false }

/-- The end of a completion (R263): `BUSY <- 0`, `DONE <- 1`. `PENDING`, the sequencer's position and its temporaries are
unspecified while idle (R56). Log 10. -/
def State.finish (s : State) : State :=
  { s with
    busy := false
    done := true
    pending := Config.pendingWord s.draws
    seq := freeSequencer s.draws
    draws := s.draws + 1 }

/-- The reset event (R320, R321): flags, `CMD`, `CTRL`, lengths and operand registers 0, every buffer byte never
written, the engine state unspecified. The parameters and the events still to come are no state of the core. -/
def State.resetEvent (s : State) : State :=
  { State.reset with
    params := s.params
    cipher := freeCipher s.draws
    digest := freeDigest s.draws
    pending := Config.pendingWord s.draws
    seq := freeSequencer s.draws
    events := s.events
    draws := s.draws + 1 }

/-- The state in which the next event happens, `rest` being the events after it: no word has been returned yet. -/
def State.turn (s : State) (rest : List Event) : State := { s with events := rest, response := none }

end Sys2Proof.Machine
end

