-- ==== Sys2Proof/Machine/Operands.lean ====
section
/-! DEFINITION. The operands. Every operand of a command is implicit (30_encoding.md R110, R112): a register or a buffer
governed by a length register. Here stand the address map (20_memory.md R84), the registers as the host sees them
(10_state.md R31 to R41), the buffers, and the submission checks of 60_exceptions.md R285. -/

namespace Sys2Proof.Machine

/-! ### The address map (R84) -/

/-- The address of a register. -/
def Reg.address : Reg → Nat
  | .cmd => 0x0000
  | .status => 0x0004
  | .ctrl => 0x0008
  | .id => 0x000C
  | .proto => 0x0010
  | .cap0 => 0x0014
  | .cap1 => 0x0018
  | .mlen => 0x0020
  | .klen => 0x0024
  | .upwlen => 0x0028
  | .opwlen => 0x002C
  | .fidlen => 0x0030
  | .fklen => 0x0034
  | .oklen => 0x0038
  | .perm => 0x003C
  | .objnum => 0x0040
  | .gennum => 0x0044

/-- Live registers are accessible while a command runs (R84, R88). -/
def Reg.live : Reg → Bool
  | .status | .ctrl | .id | .proto | .cap0 | .cap1 => true
  | .cmd | .mlen | .klen | .upwlen | .opwlen | .fidlen | .fklen | .oklen | .perm | .objnum | .gennum => false

/-- The registers the host can only read (R84, R86). -/
def Reg.readOnly : Reg → Bool
  | .id | .proto | .cap0 | .cap1 | .oklen => true
  | .cmd | .status | .ctrl | .mlen | .klen | .upwlen | .opwlen | .fidlen | .fklen | .perm | .objnum | .gennum => false

/-- The registers, in address order. -/
def Reg.all : List Reg :=
  [.cmd, .status, .ctrl, .id, .proto, .cap0, .cap1, .mlen, .klen, .upwlen, .opwlen, .fidlen, .fklen, .oklen, .perm,
    .objnum, .gennum]

/-- The address of a buffer's byte 0. -/
def Buf.base : Buf → Nat
  | .upw => 0x0080
  | .opw => 0x00A0
  | .oval => 0x00C0
  | .uval => 0x00E0
  | .fkey => 0x0100
  | .okey => 0x0110
  | .dout => 0x0120
  | .padout => 0x0140
  | .key => 0x0200
  | .fid => 0x0300
  | .msg => 0x1000

/-- The size of a buffer in bytes. -/
def Buf.size (p : Params) : Buf → Nat
  | .upw => 32
  | .opw => 32
  | .oval => 32
  | .uval => 32
  | .fkey => 16
  | .okey => 16
  | .dout => 16
  | .padout => 32
  | .key => 256
  | .fid => p.fidSize
  | .msg => p.msgSize

/-- The buffers the host can only read (R84, R86). -/
def Buf.readOnly : Buf → Bool
  | .uval | .okey | .dout | .padout => true
  | .upw | .opw | .oval | .fkey | .key | .fid | .msg => false

/-- The buffers, in address order. -/
def Buf.all : List Buf := [.upw, .opw, .oval, .uval, .fkey, .okey, .dout, .padout, .key, .fid, .msg]

/-- The address lies in the buffer's window. -/
def Buf.holds (p : Params) (a : Nat) (b : Buf) : Bool := decide (b.base ≤ a ∧ a < b.base + b.size p)

/-- The location at an address: `none` when the address is misaligned (R87) or unmapped (R89). -/
def locate (p : Params) (addr : PortAddr) : Option Location :=
  let a := addr.toNat
  if a % 4 ≠ 0 then none
  else
    match Reg.all.find? fun r => r.address == a with
    | some r => some (.reg r)
    | none => (Buf.all.find? (Buf.holds p a)).map fun b => .buf b (a - b.base)

/-! ### The operand registers as the host sees them -/

/-- A host write of an operand register (R86): `OBJNUM` keeps 24 bits and `GENNUM` 16 (R41). The registers that are no
operand registers have their own rules, and stay as they are here. -/
def State.writeOperand (s : State) (r : Reg) (v : Word) : State :=
  match r with
  | .mlen => { s with mlen := v }
  | .klen => { s with klen := v }
  | .upwlen => { s with upwlen := v }
  | .opwlen => { s with opwlen := v }
  | .fidlen => { s with fidlen := v }
  | .fklen => { s with fklen := v }
  | .perm => { s with perm := v }
  | .objnum => { s with objnum := v.extractLsb 23 0 }
  | .gennum => { s with gennum := v.extractLsb 15 0 }
  | .cmd | .status | .ctrl | .id | .proto | .cap0 | .cap1 | .oklen => s

/-! ### The buffers as the commands see them -/

/-- `BUF[0:n]`. -/
def State.buffer (s : State) (b : Buf) (n : Nat) : List Byte := s.bytesAt b.base n

/-- `BUF[0:len(bs)] <- bs`. -/
def State.setBuffer (s : State) (b : Buf) (bs : List Byte) : State := s.store b.base bs

/-- `BUF[0:n]` was written since reset (R325). -/
def State.bufferWritten (s : State) (b : Buf) (n : Nat) : Bool := s.written b.base n

/-- What a command stores in `b` where every output byte depends on every byte of some input: the computed bytes `bs` if
that input was written since reset, else as many free bytes (R325: "for the digest-based outputs that is the whole
output"). Log 14. -/
def State.resultBytes (s : State) (b : Buf) (inputWritten : Bool) (bs : List Byte) : List Byte :=
  if inputWritten then bs else freeOutput s.draws b.base bs.length

/-- The user password: only `min(UPWLEN, 32)` bytes of `UPW` are ever used (R33). -/
def State.userPassword (s : State) : List Byte := s.buffer .upw (min s.upwlen.toNat 32)

/-- The owner password: only `min(OPWLEN, 32)` bytes of `OPW` are ever used (R33). -/
def State.ownerPassword (s : State) : List Byte := s.buffer .opw (min s.opwlen.toNat 32)

/-- The password `SEL` selects (R112). -/
def State.password (s : State) : PasswordSel → List Byte
  | .user => s.userPassword
  | .owner => s.ownerPassword

/-- `MSG[0:MLEN]` (R31). -/
def State.message (s : State) : List Byte := s.buffer .msg s.mlen.toNat

/-- `KEY[0:KLEN]` (R32). -/
def State.cipherKey (s : State) : List Byte := s.buffer .key s.klen.toNat

/-- `FID[0:FIDLEN]` (R39). -/
def State.fileId (s : State) : List Byte := s.buffer .fid s.fidlen.toNat

/-- `FKEY[0:FKLEN]` (R40). -/
def State.fileKey (s : State) : List Byte := s.buffer .fkey s.fklen.toNat

/-- `OVAL[0:32]` (R50). -/
def State.ownerValue (s : State) : List Byte := s.buffer .oval 32

/-! ### Whether the inputs were written since reset (R325) -/

/-- The bytes of the user password (R33). -/
def State.userPasswordWritten (s : State) : Bool := s.bufferWritten .upw (min s.upwlen.toNat 32)

/-- The bytes of the password the Owner value's base key is made from (43_kdf.md R211): the owner's if non-empty, else the
user's. -/
def State.effectivePasswordWritten (s : State) : Bool :=
  if min s.opwlen.toNat 32 > 0 then s.bufferWritten .opw (min s.opwlen.toNat 32) else s.userPasswordWritten

/-- `MSG[0:MLEN]`. -/
def State.messageWritten (s : State) : Bool := s.bufferWritten .msg s.mlen.toNat

/-- `KEY[0:KLEN]`. -/
def State.cipherKeyWritten (s : State) : Bool := s.bufferWritten .key s.klen.toNat

/-- `FID[0:FIDLEN]`. -/
def State.fileIdWritten (s : State) : Bool := s.bufferWritten .fid s.fidlen.toNat

/-- `FKEY[0:FKLEN]`. -/
def State.fileKeyWritten (s : State) : Bool := s.bufferWritten .fkey s.fklen.toNat

/-- `OVAL[0:32]`. -/
def State.ownerValueWritten (s : State) : Bool := s.bufferWritten .oval 32

/-! ### The submission checks (R285) -/

/-- The data-length check on `MLEN`. -/
def State.messageLengthError (s : State) : Option Error :=
  if s.mlen.toNat > s.params.msgSize then some .len else none

/-- The data-length check on `FIDLEN`. -/
def State.fileIdLengthError (s : State) : Option Error :=
  if s.fidlen.toNat > s.params.fidSize then some .len else none

/-- The key-length check on `KLEN`. -/
def State.cipherKeyLengthError (s : State) : Option Error :=
  if s.klen.toNat = 0 ∨ s.klen.toNat > 256 then some .keylen else none

/-- The key-length check on `FKLEN`. -/
def State.fileKeyLengthError (s : State) : Option Error :=
  if s.fklen.toNat < 5 ∨ s.fklen.toNat > 16 then some .keylen else none

/-- The cipher-state check. -/
def State.noCipherError (s : State) : Option Error := if s.cvalid then none else some .nocipher

/-- The checks of each command in the order of R285 (data length, key length, cipher state): the first that fails gives
the error. -/
def State.submissionError (s : State) : Instr → Option Error
  | .nop => none
  | .digest => s.messageLengthError
  | .rc4Init => s.cipherKeyLengthError
  | .rc4Proc => s.messageLengthError.or s.noCipherError
  | .pad _ => none
  | .deriveOwner => none
  | .deriveFkey => s.fileIdLengthError
  | .deriveUser => s.fileIdLengthError.or s.fileKeyLengthError
  | .objkey => s.fileKeyLengthError
  | .encObj => s.messageLengthError.or s.fileKeyLengthError

/-! ### The two events of a command -/

/-- The next event of the command `i`, whose rule gives it the effect `effect` at completion. While the core is idle it is
the submission of `i` (45_sequencer.md R260): rejected with the first failing check (R261), or accepted (R262). While the
core is busy it is the completion of `i` (R263). -/
def runCommand (i : Instr) (effect : State → State) (s : State) : Result :=
  if s.busy then .next (effect s).finish
  else
    match s.submissionError i with
    | some e => .next (s.raise e)
    | none => .next (s.accept (encode i))

end Sys2Proof.Machine
end

