-- ==== Sys2Proof/Machine/Cipher.lean ====
section
/-! DEFINITION. The stream cipher primitive and the commands `RC4_INIT` and `RC4_PROC` (41_cipher.md). -/

namespace Sys2Proof.Machine

/-- `S[x]`. -/
def tableAt (S : Vector Byte 256) (x : Byte) : Byte := S[x.toNat]'x.isLt

/-- Swap `S[x]` and `S[y]`. -/
def swapEntries (S : Vector Byte 256) (x y : Byte) : Vector Byte 256 := S.swap x.toNat y.toNat x.isLt y.isLt

/-- Entry `n` is `n` (R171). -/
def identityTable : Vector Byte 256 := Vector.ofFn fun n => BitVec.ofNat 8 n

/-- Mixing step `n` of the key schedule (R171): the table and the partner index `q`. -/
def mixStep (key : List Byte) (c : Vector Byte 256 × Byte) (n : Nat) : Vector Byte 256 × Byte :=
  let q := c.2 + tableAt c.1 (BitVec.ofNat 8 n) + key.getD (n % key.length) 0
  (swapEntries c.1 (BitVec.ofNat 8 n) q, q)

/-- `RC4_KSA(key)` (R171): 256 mixing steps from the identity table, then both cursors 0. -/
def keySchedule (key : List Byte) : CipherState where
  S := ((List.range 256).foldl (mixStep key) (identityTable, 0)).1
  i := 0
  j := 0

/-- The cipher state after one keystream step (`RC4_STEP`, R172). -/
def cipherStep (c : CipherState) : CipherState :=
  let i := c.i + 1
  let j := c.j + tableAt c.S i
  { S := swapEntries c.S i j, i := i, j := j }

/-- The keystream byte of a step, from the state after its swap (R172). -/
def keystreamByte (c : CipherState) : Byte := tableAt c.S (tableAt c.S c.i + tableAt c.S c.j)

/-- `RC4_PROCESS` (R172): the state after the data, and the output. -/
def cipherProcess : CipherState → List Byte → CipherState × List Byte
  | c, [] => (c, [])
  | c, x :: xs =>
    let c' := cipherStep c
    let r := cipherProcess c' xs
    (r.1, (x ^^^ keystreamByte c') :: r.2)

/-- `RC4(key, data)`: a fresh cipher per call (43_kdf.md, before R210). -/
def rc4 (key data : List Byte) : List Byte := (cipherProcess (keySchedule key) data).2

/-- A table that is a permutation of 0..255 (R54) and otherwise unknown: entry `n` is swapped with a free partner, for
every `n`, and every permutation comes of some choice of the partners. Log 14. -/
def unknownKeyTable (draw : Nat) : Vector Byte 256 :=
  (List.range 256).foldl (fun S n => swapEntries S (BitVec.ofNat 8 n) (Config.tablePartner draw n)) identityTable

/-- The cipher state `n` keystream steps after a key schedule whose key holds a byte never written since reset: the
cursors start at 0 (R171) and `i` counts the steps (R172), all else is unknown (R325). Log 14. -/
def unknownKeyCipher (draw n : Nat) : CipherState where
  S := unknownKeyTable draw
  i := BitVec.ofNat 8 n
  j := if n = 0 then 0 else Config.payloadCursor draw

/-- The completion of `RC4_INIT` (R173). -/
def completeRc4Init (s : State) : State :=
  { s with
    cipher := if s.cipherKeyWritten then keySchedule s.cipherKey else unknownKeyCipher s.draws 0
    cvalid := true }

/-- `RC4_INIT` (R173). -/
def execRc4Init (s : State) : Result := runCommand .rc4Init completeRc4Init s

/-- Process `MSG[0:MLEN]` in place, starting from the cipher state `c`. -/
def State.cipherMessage (s : State) (c : CipherState) : State :=
  let r := cipherProcess c s.message
  { s.setBuffer .msg r.2 with cipher := r.1 }

/-- The completion of `RC4_PROC` (R174). -/
def completeRc4Proc (s : State) : State := s.cipherMessage s.cipher

/-- `RC4_PROC` (R174). -/
def execRc4Proc (s : State) : Result := runCommand .rc4Proc completeRc4Proc s

end Sys2Proof.Machine
end

