-- ==== Sys2Proof/Machine/Digest.lean ====
section
/-! DEFINITION. The digest primitive and the command `DIGEST` (40_digest.md). -/

namespace Sys2Proof.Machine

/-- `rotl32(x, s)`, left rotation for `1 <= s <= 31` (00_scope.md R12). -/
def rotl32 (x : Word) (s : Nat) : Word := (x <<< s) ||| (x >>> (32 - s))

/-- The zero bytes of the padding (R141): the least `z` with `n + 1 + z ≡ 56 (mod 64)`. -/
def padZeros (n : Nat) : Nat := (119 - n % 64) % 64

/-- `padding(n)` (R141): 0x80, the zeros, the bit length as a 64-bit little-endian integer. -/
def digestPadding (n : Nat) : List Byte := (0x80 : Byte) :: zeros (padZeros n) ++ bytesLe (8 * n % 2 ^ 64) 8

/-- The number of blocks of the padded message (R141). -/
def blockCount (n : Nat) : Nat := (n + 8) / 64 + 1

/-- The four initial constants (R142). -/
def digestInit : Accumulators where
  a := 0x67452301
  b := 0xEFCDAB89
  c := 0x98BADCFE
  d := 0x10325476

/-- `W[g]` of a block (R143). -/
def blockWord (block : List Byte) (g : Nat) : Word := le32 ((block.drop (4 * g)).take 4)

/-- The rotation amounts of each sub-range of rounds (R145). -/
def shiftRows : List (List Nat) := [[7, 12, 17, 22], [5, 9, 14, 20], [4, 11, 16, 23], [6, 10, 15, 21]]

/-- `SHIFT[i]` (R145): each row repeats its group of four. -/
def shiftAmount (i : Nat) : Nat := (shiftRows.getD (i / 16) []).getD (i % 4) 0

/-- `K[0..63]` (R146), sixteen constants a piece. -/
def roundConstants : List Word :=
  [0xD76AA478, 0xE8C7B756, 0x242070DB, 0xC1BDCEEE, 0xF57C0FAF, 0x4787C62A, 0xA8304613, 0xFD469501,
    0x698098D8, 0x8B44F7AF, 0xFFFF5BB1, 0x895CD7BE, 0x6B901122, 0xFD987193, 0xA679438E, 0x49B40821]
  ++ [0xF61E2562, 0xC040B340, 0x265E5A51, 0xE9B6C7AA, 0xD62F105D, 0x02441453, 0xD8A1E681, 0xE7D3FBC8,
    0x21E1CDE6, 0xC33707D6, 0xF4D50D87, 0x455A14ED, 0xA9E3E905, 0xFCEFA3F8, 0x676F02D9, 0x8D2A4C8A]
  ++ [0xFFFA3942, 0x8771F681, 0x6D9D6122, 0xFDE5380C, 0xA4BEEA44, 0x4BDECFA9, 0xF6BB4B60, 0xBEBFBC70,
    0x289B7EC6, 0xEAA127FA, 0xD4EF3085, 0x04881D05, 0xD9D4D039, 0xE6DB99E5, 0x1FA27CF8, 0xC4AC5665]
  ++ [0xF4292244, 0x432AFF97, 0xAB9423A7, 0xFC93A039, 0x655B59C3, 0x8F0CCC92, 0xFFEFF47D, 0x85845DD1,
    0x6FA87E4F, 0xFE2CE6E0, 0xA3014314, 0x4E0811A1, 0xF7537E82, 0xBD3AF235, 0x2AD7D2BB, 0xEB86D391]

/-- `K[i]` (R146). -/
def roundConstant (i : Nat) : Word := roundConstants.getD i 0

/-- The bitwise formula of round `i` (R144). -/
def mix (i : Nat) (b c d : Word) : Word :=
  if i < 16 then (b &&& c) ||| (~~~b &&& d)
  else if i < 32 then (d &&& b) ||| (~~~d &&& c)
  else if i < 48 then b ^^^ c ^^^ d
  else c ^^^ (b ||| ~~~d)

/-- The word index `g` of round `i` (R144). -/
def wordIndex (i : Nat) : Nat :=
  if i < 16 then i
  else if i < 32 then (5 * i + 1) % 16
  else if i < 48 then (3 * i + 5) % 16
  else 7 * i % 16

/-- Round `i` (R144): the right-hand accumulators are the old ones. -/
def digestRound (block : List Byte) (w : Accumulators) (i : Nat) : Accumulators :=
  let t := w.a + mix i w.b w.c w.d + roundConstant i + blockWord block (wordIndex i)
  { a := w.d, b := w.b + rotl32 t (shiftAmount i), c := w.b, d := w.c }

/-- `compress` (R144): 64 rounds, then the working accumulators are added into the running ones, after every block
(R147). -/
def compress (h : Accumulators) (block : List Byte) : Accumulators :=
  let w := (List.range 64).foldl (digestRound block) h
  { a := h.a + w.a, b := h.b + w.b, c := h.c + w.c, d := h.d + w.d }

/-- Block `t` of a padded message (R140). -/
def blockAt (p : List Byte) (t : Nat) : List Byte := (p.drop (64 * t)).take 64

/-- The running accumulators after every block of the padded message (R140). -/
def digestBlocks (m : List Byte) : Accumulators :=
  let p := m ++ digestPadding m.length
  (List.range (blockCount m.length)).foldl (fun h t => compress h (blockAt p t)) digestInit

/-- The 16 bytes of the result, `H0` first, each little-endian (R148). -/
def digestOutput (h : Accumulators) : List Byte :=
  bytesLe h.a.toNat 4 ++ bytesLe h.b.toNat 4 ++ bytesLe h.c.toNat 4 ++ bytesLe h.d.toNat 4

/-- `MD5(m)` (R140). -/
def md5 (m : List Byte) : List Byte := digestOutput (digestBlocks m)

/-- The completion of `DIGEST` (R149): `DOUT[0:16] <- MD5(MSG[0:MLEN])`, and all of `DOUT` free if a byte of `MSG[0:MLEN]`
was never written since reset (log 14); the digest state is discarded (R52). -/
def completeDigest (s : State) : State :=
  (s.setBuffer .dout (s.resultBytes .dout s.messageWritten (md5 s.message))).discardDigest

/-- `DIGEST` (R149). -/
def execDigest (s : State) : Result := runCommand .digest completeDigest s

end Sys2Proof.Machine
end

