-- ==== Sys2Proof/Machine/Pad.lean ====
section
/-! DEFINITION. The password normalizer and the command `PAD` (42_pad.md). -/

namespace Sys2Proof.Machine

/-- The padding constant (R200). -/
def padding : List Byte :=
  [0x28, 0xBF, 0x4E, 0x5E, 0x4E, 0x75, 0x8A, 0x41, 0x64, 0x00, 0x4E, 0x56, 0xFF, 0xFA, 0x01, 0x08]
  ++ [0x2E, 0x2E, 0x00, 0xB6, 0xD0, 0x68, 0x3E, 0x80, 0x2F, 0x0C, 0xA9, 0xFE, 0x64, 0x53, 0x69, 0x7A]

/-- `pad(p)` (R201). -/
def padPassword (p : List Byte) : List Byte :=
  let n := min p.length 32
  p.take n ++ padding.take (32 - n)

/-- The completion of `PAD` (R202). -/
def completePad (sel : PasswordSel) (s : State) : State := s.setBuffer .padout (padPassword (s.password sel))

/-- `PAD` (R202). -/
def execPad (sel : PasswordSel) (s : State) : Result := runCommand (.pad sel) (completePad sel) s

end Sys2Proof.Machine
end

