-- ==== Sys2Proof/Machine/Kdf.lean ====
section
/-! DEFINITION. The key derivation engine and the commands `DERIVE_OWNER`, `DERIVE_FKEY`, `DERIVE_USER` (43_kdf.md). -/

namespace Sys2Proof.Machine

/-- `xorKey(base, k)` (R210). -/
def xorKey (base : List Byte) (k : Byte) : List Byte := base.map fun x => x ^^^ k

/-- `n` re-digests: each replaces the working value with the digest of its first 16 bytes (R211, R212). -/
def redigest : Nat → List Byte → List Byte
  | 0, h => h
  | n + 1, h => redigest n (md5 (h.take 16))

/-- The cipher passes `k = 0 .. n-1` in that order, pass `k` keyed with `xorKey(base, k)` (R211, R213). -/
def cipherPasses (base : List Byte) (n : Nat) (v : List Byte) : List Byte :=
  (List.range n).foldl (fun v k => rc4 (xorKey base (BitVec.ofNat 8 k)) v) v

/-- The password the base key is made from (R211): the owner's if non-empty, else the user's. -/
def effectivePassword (opw upw : List Byte) : List Byte := if opw.length > 0 then opw else upw

/-- The 16-byte RC4 base key of R211. -/
def ownerBaseKey (opw upw : List Byte) : List Byte := redigest 50 (md5 (padPassword (effectivePassword opw upw)))

/-- `deriveOwnerValue` (R211). -/
def deriveOwnerValue (opw upw : List Byte) : List Byte := cipherPasses (ownerBaseKey opw upw) 20 (padPassword upw)

/-- `deriveFileKey` (R212). -/
def deriveFileKey (upw oval : List Byte) (perm : Word) (fid : List Byte) : List Byte :=
  (redigest 50 (md5 (padPassword upw ++ oval ++ bytesLe perm.toNat 4 ++ fid))).take 16

/-- The first 16 bytes of the User value (R213): pass 0 uses the key itself, passes 1 to 19 the key XORed with the pass
index. -/
def userValueHead (fkey fid : List Byte) : List Byte := cipherPasses fkey 20 (md5 (padding ++ fid))

/-- `deriveUserValue` (R213). -/
def deriveUserValue (fkey fid : List Byte) : List Byte := userValueHead fkey fid ++ zeros 16

/-- What `DERIVE_OWNER` stores (R216): free if a byte of the effective password was never written since reset; a byte of
the user password alone that was not is ciphered like any other, and reaches one byte of the result (log 14). -/
def State.newOwnerValue (s : State) : List Byte :=
  s.resultBytes .oval s.effectivePasswordWritten (deriveOwnerValue s.ownerPassword s.userPassword)

/-- What `DERIVE_FKEY` stores (R217): free if a byte the first digest reads was never written since reset (log 14). -/
def State.newFileKey (s : State) : List Byte :=
  s.resultBytes .fkey (s.userPasswordWritten && s.ownerValueWritten && s.fileIdWritten)
    (deriveFileKey s.userPassword s.ownerValue s.perm s.fileId)

/-- What `DERIVE_USER` stores (R218): the first 16 bytes free if a byte of the key or of the identifier was never written
since reset (log 14); the last 16 are zero always. -/
def State.newUserValue (s : State) : List Byte :=
  s.resultBytes .uval (s.fileKeyWritten && s.fileIdWritten) (userValueHead s.fileKey s.fileId) ++ zeros 16

/-- The completion of `DERIVE_OWNER` (R216). -/
def completeDeriveOwner (s : State) : State :=
  ((s.setBuffer .oval s.newOwnerValue).loseCipher).discardDigest

/-- `DERIVE_OWNER` (R216). -/
def execDeriveOwner (s : State) : Result := runCommand .deriveOwner completeDeriveOwner s

/-- The completion of `DERIVE_FKEY` (R217). -/
def completeDeriveFkey (s : State) : State :=
  { s.setBuffer .fkey s.newFileKey with fklen := 16 }.discardDigest

/-- `DERIVE_FKEY` (R217). -/
def execDeriveFkey (s : State) : Result := runCommand .deriveFkey completeDeriveFkey s

/-- The completion of `DERIVE_USER` (R218). -/
def completeDeriveUser (s : State) : State :=
  ((s.setBuffer .uval s.newUserValue).loseCipher).discardDigest

/-- `DERIVE_USER` (R218). -/
def execDeriveUser (s : State) : Result := runCommand .deriveUser completeDeriveUser s

end Sys2Proof.Machine
end

