-- ==== Sys2Proof/Machine/Nop.lean ====
section
/-! DEFINITION. The command `NOP` (45_sequencer.md R265). -/

namespace Sys2Proof.Machine

/-- The completion of `NOP` (R265): nothing. -/
def completeNop (s : State) : State := s

/-- `NOP` (R265). -/
def execNop (s : State) : Result := runCommand .nop completeNop s

end Sys2Proof.Machine
end

