-- ==== Sys2Proof/Machine/ObjKey.lean ====
section
/-! DEFINITION. The per-object key deriver, the payload encryption and the commands `OBJKEY` and `ENC_OBJ`
(44_objkey.md). -/

namespace Sys2Proof.Machine

/-- `objectKey` (R240). -/
def objectKey (fkey : List Byte) (obj gen : Nat) : List Byte :=
  (md5 (fkey ++ bytesLe obj 3 ++ bytesLe gen 2)).take (min (fkey.length + 5) 16)

/-- `encryptPayload` (R241): a fresh cipher per call. -/
def encryptPayload (data fkey : List Byte) (obj gen : Nat) : List Byte := rc4 (objectKey fkey obj gen) data

/-- The per-object key of the operand registers. -/
def State.currentObjectKey (s : State) : List Byte := objectKey s.fileKey s.objnum.toNat s.gennum.toNat

/-- What `OBJKEY` and `ENC_OBJ` store as the key: free if a byte of `FKEY[0:FKLEN]` was never written since reset
(log 14). -/
def State.newObjectKey (s : State) : List Byte := s.resultBytes .okey s.fileKeyWritten s.currentObjectKey

/-- `OKEY[0:n] <- k ; OKEY[n:16] <- zeros(16 - n) ; OKLEN <- n` (R242); the digest state is discarded (R52). -/
def State.setObjectKey (s : State) (k : List Byte) : State :=
  { s.setBuffer .okey (k ++ zeros (16 - k.length)) with oklen := BitVec.ofNat 32 k.length }.discardDigest

/-- The completion of `OBJKEY` (R242). -/
def completeObjkey (s : State) : State := s.setObjectKey s.newObjectKey

/-- `OBJKEY` (R242). -/
def execObjkey (s : State) : Result := runCommand .objkey completeObjkey s

/-- `MSG[0:MLEN]` processed with a fresh cipher keyed with the per-object key (R241, R243): free if a byte of
`FKEY[0:FKLEN]` was never written since reset (log 14). -/
def State.encryptedMessage (s : State) : List Byte :=
  s.resultBytes .msg s.fileKeyWritten (cipherProcess (keySchedule s.currentObjectKey) s.message).2

/-- The cipher state at the end of the payload (R243). -/
def State.payloadCipher (s : State) : CipherState :=
  if s.fileKeyWritten then (cipherProcess (keySchedule s.currentObjectKey) s.message).1
  else unknownKeyCipher s.draws s.mlen.toNat

/-- The completion of `ENC_OBJ` (R243): `OKEY` and `OKLEN` as `OBJKEY`, the payload encrypted in place, the cipher left at
its end. -/
def completeEncObj (s : State) : State :=
  { (s.setObjectKey s.newObjectKey).setBuffer .msg s.encryptedMessage with cipher := s.payloadCipher, cvalid := true }

/-- `ENC_OBJ` (R243). -/
def execEncObj (s : State) : Result := runCommand .encObj completeEncObj s

end Sys2Proof.Machine
end

