-- ==== Sys2Proof/Machine/Dispatch.lean ====
section
/-! DEFINITION. The meaning of every command: its submission while the core is idle, its completion while it is busy. -/

namespace Sys2Proof.Machine

def exec (i : Instr) (s : State) : Host.Outcome State Fault Refusal :=
  match i with
  | .nop => Sys2Proof.Machine.execNop s
  | .digest => Sys2Proof.Machine.execDigest s
  | .rc4Init => Sys2Proof.Machine.execRc4Init s
  | .rc4Proc => Sys2Proof.Machine.execRc4Proc s
  | .pad sel => Sys2Proof.Machine.execPad sel s
  | .deriveOwner => Sys2Proof.Machine.execDeriveOwner s
  | .deriveFkey => Sys2Proof.Machine.execDeriveFkey s
  | .deriveUser => Sys2Proof.Machine.execDeriveUser s
  | .objkey => Sys2Proof.Machine.execObjkey s
  | .encObj => Sys2Proof.Machine.execEncObj s

end Sys2Proof.Machine
end

