-- ==== Sys2Proof/Machine/Flags.lean ====
section
/-! DEFINITION. The status and control words: `STATUS` (10_state.md R36), `CTRL` (R37), the identification registers (R38)
and the interrupt output (R59). The core has no arithmetic condition flags (00_scope.md R12). -/

namespace Sys2Proof.Machine

/-- `STATUS` as the host reads it (R36): `BUSY` in bit 0, `DONE` in bit 1, `ERR` in bit 2, `CVALID` in bit 3, `ERRCODE`
in bits 11:8, every other bit 0. -/
def State.statusWord (s : State) : Word :=
  0#20 ++ s.errcode ++ 0#4 ++ BitVec.ofBool s.cvalid ++ BitVec.ofBool s.err ++ BitVec.ofBool s.done
    ++ BitVec.ofBool s.busy

/-- `CTRL` as the host reads it (R37): `IE_DONE` in bit 0, `IE_ERR` in bit 1, every other bit 0. -/
def State.ctrlWord (s : State) : Word := 0#30 ++ BitVec.ofBool s.ieErr ++ BitVec.ofBool s.ieDone

/-- The identification constant (R38). -/
def idValue : Word := 0x4D355234

/-- Revision 3 in bits 7:0, key length 128 in bits 23:8 (R38). -/
def protoValue : Word := 0x00008003

/-- The value a read of a register returns, zero-extended to 32 bits (R85). -/
def State.register (s : State) : Reg → Word
  | .cmd => s.cmd
  | .status => s.statusWord
  | .ctrl => s.ctrlWord
  | .id => idValue
  | .proto => protoValue
  | .cap0 => BitVec.ofNat 32 s.params.msgSize
  | .cap1 => BitVec.ofNat 32 s.params.fidSize
  | .mlen => s.mlen
  | .klen => s.klen
  | .upwlen => s.upwlen
  | .opwlen => s.opwlen
  | .fidlen => s.fidlen
  | .fklen => s.fklen
  | .oklen => s.oklen
  | .perm => s.perm
  | .objnum => s.objnum.setWidth 32
  | .gennum => s.gennum.setWidth 32

/-- A host write of `STATUS` (R36, R86): a 1 in bit 1 clears `DONE`, a 1 in bit 2 clears `ERR` and `ERRCODE`, all else is
ignored. -/
def State.writeStatus (s : State) (v : Word) : State :=
  let t := if v.getLsbD 1 then s.clearDone else s
  if v.getLsbD 2 then t.clearError else t

/-- A host write of `CTRL` (R37, R86). -/
def State.writeCtrl (s : State) (v : Word) : State := { s with ieDone := v.getLsbD 0, ieErr := v.getLsbD 1 }

/-- The interrupt output (R59, R288). -/
def State.irq (s : State) : Bool := (s.done && s.ieDone) || (s.err && s.ieErr)

end Sys2Proof.Machine
end

