-- ==== Sys2Proof/Machine/Port.lean ====
section
/-! DEFINITION. The host port: the two transactions of 20_memory.md (R85, R86), the submission of a command word
(45_sequencer.md R260), and the core's own turn (R263). -/

namespace Sys2Proof.Machine

/-- The answer to a read: a word, nothing else changed. -/
def State.answer (s : State) (w : Word) : State := { s with response := some w }

/-- The word at a location, while it may be read (R85, R83). -/
def State.wordAt (s : State) : Location → Word
  | .reg r => s.register r
  | .buf b k => le32 (s.bytesAt (b.base + k) 4)

/-- The location is readable at any time (R84, R88). -/
def Location.live : Location → Bool
  | .reg r => r.live
  | .buf _ _ => false

/-- The location is read-only for the host (R84, R86). -/
def Location.readOnly : Location → Bool
  | .reg r => r.readOnly
  | .buf b _ => b.readOnly

/-- `MemRead(addr, 4)` (R85), its lines in their order. -/
def hostRead (addr : PortAddr) (s : State) : State :=
  match locate s.params addr with
  | none => (s.raise .addr).answer 0
  | some loc =>
    if loc.live then s.answer (s.wordAt loc)
    else if s.busy then (s.answer (Config.busyWord s.draws)).nextDraw
    else s.answer (s.wordAt loc)

/-- The word a `CMD` write brings is submitted (R260): decoded, then the command's own checks. -/
def submit (w : Word) (s : State) : Result :=
  match decode w with
  | .error _ => .next (s.raise .opcode)
  | .ok i => exec i s

/-- The effect of a write that is neither refused nor ignored, on a location that is no live register (R86). -/
def writeIdle (loc : Location) (v : Word) (s : State) : Result :=
  match loc with
  | .reg .cmd => submit v s
  | .reg r => .next (s.writeOperand r v)
  | .buf b k => .next (s.store (b.base + k) (bytesLe v.toNat 4))

/-- `MemWrite(addr, 4, v)` (R86), its lines in their order. -/
def hostWrite (addr : PortAddr) (v : Word) (s : State) : Result :=
  match locate s.params addr with
  | none => .next (s.raise .addr)
  | some loc =>
    if loc = .reg .status then .next (s.writeStatus v)
    else if loc = .reg .ctrl then .next (s.writeCtrl v)
    else if loc.readOnly then .next s
    else if s.busy then .next (s.raise .busy)
    else writeIdle loc v s

/-- The core's turn: while busy its one enabled step is the completion of `PENDING` (R263); while idle it waits (R299). -/
def coreTurn (s : State) : Result :=
  if s.busy then
    match decode s.pending with
    | .ok i => exec i s
    | .error _ => .fault .pendingNotACommand
  else .next s

/-- The command word `w` placed where the next instruction comes from: while idle, the next event writes `w` to `CMD`
(address 0x0000, R35); while busy, `w` is the command in execution and the next event is the core's turn. Log 2. -/
def State.placeCommand (s : State) (w : Word) : State :=
  if s.busy then { s with cmd := w, pending := w, events := .core :: s.events }
  else { s with events := .write 0x0000 w :: s.events }

end Sys2Proof.Machine
end

