-- ==== Sys2Proof/Machine/Step.lean ====
section
/-! DEFINITION. One step: one event of the total order of 20_memory.md R94. The next event stands in `events`; when none
is left the core takes its turn, so that a busy core completes (45_sequencer.md R264). -/

namespace Sys2Proof.Machine

/-- One event. A write is an occurrence after which unspecified bytes are drawn anew (R85 lets them change at a write,
a completion and a reset, and not at a read). -/
def step (s : State) : Host.Outcome State Fault Refusal :=
  match s.events with
  | [] => coreTurn (s.turn [])
  | .core :: rest => coreTurn (s.turn rest)
  | .read addr :: rest => .next (hostRead addr (s.turn rest))
  | .write addr v :: rest => hostWrite addr v (s.turn rest).nextDraw
  | .reset :: rest => .next (s.turn rest).resetEvent

/-- `s` with the command word of `nbits` bits `w`, the bits above zero, where `step` fetches its next instruction. -/
def State.withFetchWord (s : State) (nbits w : Nat) : State := s.placeCommand (BitVec.ofNat 32 (w % 2 ^ nbits))

end Sys2Proof.Machine
end

