-- ==== Sys2Proof/Machine/Schedule.lean ====
section
/-! DEFINITION. The finer model of 45_sequencer.md R266 and R267, beside the one-event completion that `step` uses: the
digest engine working block by block and round by round on the digest state of 10_state.md R52 and R53, and the
sequencer walking the schedule of the derivation commands with the temporaries of R56. R267 says that both have the same
host-visible behaviours; the statements about this file say that they end in the same state. -/

namespace Sys2Proof.Machine

/-! ### The digest engine (R52, R53) -/

/-- The first `n` bytes of `b` in a register of `n` bytes. DESIGN CHOICE (log 19): where `b` is shorter the rest is filled
with zero bytes; the spec does not say what a temporary holds beyond its value (R56). -/
def toRegister (n : Nat) (b : List Byte) : Vector Byte n := Vector.ofFn fun k => b.getD k 0

/-- The start of every digest computation (R142). That `NBYTES` starts at 0 is the model's choice (log 18). -/
def DigestState.start (d : DigestState) : DigestState := { d with h := digestInit, nbytes := 0 }

/-- A block enters `BLK`; the working accumulators start from the running ones (R144). DESIGN CHOICE (log 18): R53 does
not say what `NBYTES` counts; here it counts the bytes of the padded message, 64 at every block load, from 0 at the start
of a computation. -/
def DigestState.loadBlock (d : DigestState) (block : List Byte) : DigestState :=
  { d with blk := toRegister 64 block, work := d.h, nbytes := d.nbytes + 64 }

/-- One round on `BLK` (R144). -/
def DigestState.round (d : DigestState) (i : Nat) : DigestState :=
  { d with work := digestRound d.blk.toList d.work i }

/-- The working accumulators are added into the running ones (R147). -/
def DigestState.addBack (d : DigestState) : DigestState :=
  { d with
    h := { a := d.h.a + d.work.a, b := d.h.b + d.work.b, c := d.h.c + d.work.c, d := d.h.d + d.work.d } }

/-- One block: load, 64 rounds, add back. -/
def DigestState.absorb (d : DigestState) (block : List Byte) : DigestState :=
  ((List.range 64).foldl DigestState.round (d.loadBlock block)).addBack

/-- A whole digest computation on the engine, from whatever state an earlier one left. -/
def DigestState.compute (d : DigestState) (m : List Byte) : DigestState :=
  let p := m ++ digestPadding m.length
  (List.range (blockCount m.length)).foldl (fun d t => d.absorb (blockAt p t)) d.start

/-! ### The sequencer's schedule of the derivation commands (R56, R266). DESIGN CHOICE (log 19): what one step does, and
which temporary holds which value: R56 names the temporaries and the values but does not assign them, and R267 leaves the
size of a step open. -/

/-- The steps of a command's schedule before its final one. DESIGN CHOICE (log 19): a step is a whole digest, of as many
blocks as it has, or a whole cipher pass with its key schedule. The other seven commands are done in their final step (the
model's choice, log 13). -/
def scheduleLength : Instr → Nat
  | .deriveOwner => 51 + 20
  | .deriveFkey => 51
  | .deriveUser => 1 + 20
  | .nop | .digest | .rc4Init | .rc4Proc | .pad _ | .objkey | .encObj => 0

/-- The schedule starts at its first position. -/
def State.scheduleStart (s : State) : State := { s with seq := { s.seq with position := 0 } }

/-- A digest step: the digest temporary takes the digest of `m`, of however many blocks, in one step (the model's choice,
log 19). -/
def Sequencer.digestStep (q : Sequencer) (m : List Byte) : Sequencer :=
  { q with position := q.position + 1, digestTmp := toRegister 16 (md5 m) }

/-- A cipher pass with the key `key` over the first `n` bytes of the data temporary, the key schedule in the same step. That
the key temporary holds the pass's key, and the data temporary the working value, is the model's choice (log 19). -/
def Sequencer.passStep (q : Sequencer) (key : List Byte) (n : Nat) : Sequencer :=
  { q with
    position := q.position + 1
    keyTmp := toRegister 16 key
    dataTmp := toRegister 32 (rc4 key (q.dataTmp.toList.take n)) }

/-- One step of the schedule of R266, at the sequencer's position. DESIGN CHOICE (log 19): the digest temporary holds each
digest, and in `DERIVE_OWNER` the RC4 base key from its last digest on; the data temporary holds the value the passes work
on, loaded in the first step; the key temporary holds the XORed key of the pass. -/
def scheduleStep (i : Instr) (s : State) : State :=
  let q := s.seq
  match i with
  | .deriveOwner =>
    if q.position = 0 then
      { s with
        seq :=
          { q.digestStep (padPassword (effectivePassword s.ownerPassword s.userPassword)) with
            dataTmp := toRegister 32 (padPassword s.userPassword) } }
    else if q.position < 51 then { s with seq := q.digestStep q.digestTmp.toList }
    else { s with seq := q.passStep (xorKey q.digestTmp.toList (BitVec.ofNat 8 (q.position - 51))) 32 }
  | .deriveFkey =>
    if q.position = 0 then
      { s with
        seq := q.digestStep (padPassword s.userPassword ++ s.ownerValue ++ bytesLe s.perm.toNat 4 ++ s.fileId) }
    else { s with seq := q.digestStep q.digestTmp.toList }
  | .deriveUser =>
    if q.position = 0 then
      { s with
        seq :=
          { q.digestStep (padding ++ s.fileId) with dataTmp := toRegister 32 (md5 (padding ++ s.fileId)) } }
    else { s with seq := q.passStep (xorKey s.fileKey (BitVec.ofNat 8 (q.position - 1))) 16 }
  | .nop | .digest | .rc4Init | .rc4Proc | .pad _ | .objkey | .encObj => s

/-- The final step of the schedule: the outputs are written from the temporaries (or are free, where an input byte was
never written: log 14), and the command ends. -/
def scheduleFinish (i : Instr) (s : State) : State :=
  match i with
  | .nop => (completeNop s).finish
  | .digest => (completeDigest s).finish
  | .rc4Init => (completeRc4Init s).finish
  | .rc4Proc => (completeRc4Proc s).finish
  | .pad sel => (completePad sel s).finish
  | .deriveOwner =>
    (((s.setBuffer .oval (s.resultBytes .oval s.effectivePasswordWritten s.seq.dataTmp.toList)).loseCipher).discardDigest).finish
  | .deriveFkey =>
    ({ s.setBuffer .fkey (s.resultBytes .fkey (s.userPasswordWritten && s.ownerValueWritten && s.fileIdWritten)
        s.seq.digestTmp.toList) with fklen := 16 }.discardDigest).finish
  | .deriveUser =>
    (((s.setBuffer .uval (s.resultBytes .uval (s.fileKeyWritten && s.fileIdWritten) (s.seq.dataTmp.toList.take 16)
        ++ zeros 16)).loseCipher).discardDigest).finish
  | .objkey => (completeObjkey s).finish
  | .encObj => (completeEncObj s).finish

/-- The whole schedule of a command, step by step. -/
def runSchedule (i : Instr) (s : State) : State :=
  scheduleFinish i ((scheduleStep i)^[scheduleLength i] s.scheduleStart)

end Sys2Proof.Machine
end

