-- ==== Sys2Proof/Safety.lean ====
section
/-! DEFINITION. What counts as a safe run, in the terms the statements use: the invariant every run keeps, runs that
never stop, and what of a state the host can ever learn. -/

namespace Sys2Proof.Machine

/-- `S` is a permutation of 0..255 (10_state.md R54). -/
def isPermutation (S : Vector Byte 256) : Prop := S.Perm identityTable

/-- The address is a byte of a buffer of the map (20_memory.md R84). -/
def bufferAddress (p : Params) (a : Nat) : Prop := ∃ b : Buf, b.base ≤ a ∧ a < b.base + b.size p

/-- The invariant of the machine. -/
structure State.Inv (s : State) : Prop where
  /-- the parameters are legal (R9) -/
  paramsLegal : s.params.wf
  /-- the buffer bytes are listed in the canonical form -/
  memCanonical : Memory.wf s.mem
  /-- only buffer bytes are listed (R81, R84) -/
  memMapped : ∀ c ∈ s.mem, bufferAddress s.params c.1
  /-- the codes 7 to 15 are never produced (R280) -/
  codeLegal : s.errcode.toNat ≤ 6
  /-- `ERRCODE` is 0 exactly when `ERR` is 0 (R36, R280) -/
  codeOfFlag : s.errcode = 0 ↔ s.err = false
  /-- `CMD` is 0 or the last accepted command word (R35), so it decodes -/
  cmdLegal : ∃ i, decode s.cmd = .ok i
  /-- `OKLEN` is 0 or 10..16 (R40) -/
  okeyLength : s.oklen.toNat = 0 ∨ (10 ≤ s.oklen.toNat ∧ s.oklen.toNat ≤ 16)
  /-- `PENDING` equals `CMD` from acceptance on (R56) -/
  busyPending : s.busy = true → s.pending = s.cmd
  /-- acceptance clears `DONE` and only a completion sets it (R36) -/
  busyNotDone : s.busy = true → s.done = false
  /-- the command in execution passed its checks, and its inputs have not changed since (R88, R285) -/
  busyChecked : s.busy = true → ∀ i, decode s.cmd = .ok i → s.submissionError i = none
  /-- a cipher state that may be continued is key-scheduled (R54, R55) -/
  cipherKeyed : s.cvalid = true → isPermutation s.cipher.S

/-- Every buffer byte of `t` is that of `s`, but for `bs` stored from the port address `a` on. -/
def storedExactly (s t : State) (a : Nat) (bs : List Byte) : Prop :=
  ∀ x, t.cell x = if a ≤ x ∧ x < a + bs.length then bs[x - a]? else s.cell x

/-- Every buffer byte of `t` is that of `s`. -/
def storedNothing (s t : State) : Prop := ∀ x, t.cell x = s.cell x

/-- Each of the `n` buffer bytes from the port address `a` on was written since the last reset
(70_reset_and_hazards.md R325). -/
def allWritten (s : State) (a n : Nat) : Prop := ∀ k, k < n → (s.cell (a + k)).isSome = true

/-- The step from `s` to `t` is the completion of the command `i`: the core is busy with `i`, has the turn (the next event
is its own, or no event is left), and is idle afterwards. -/
def completes (s t : State) (i : Instr) : Prop :=
  s.busy = true ∧ decode s.pending = .ok i ∧ (s.events = [] ∨ ∃ rest, s.events = .core :: rest) ∧ t.busy = false

/-- The eleven legal command words (30_encoding.md R111, R118). -/
def legalWords : List Word :=
  [0x00000000, 0x00000001, 0x00000002, 0x00000003, 0x00000004, 0x00000104, 0x00000010, 0x00000011, 0x00000012,
    0x00000020, 0x00000021]

/-- The error code a write of `w` to `CMD` produces in state `s`, 0 for an accepted command: the priority of
60_exceptions.md R285 written out over the words, ERR_BUSY first. -/
def submissionCode (s : State) (w : Word) : BitVec 4 :=
  if s.busy then 1
  else if w ∉ legalWords then 2
  else if (w = 0x01 ∨ w = 0x03 ∨ w = 0x21) ∧ s.mlen.toNat > s.params.msgSize then 3
  else if (w = 0x11 ∨ w = 0x12) ∧ s.fidlen.toNat > s.params.fidSize then 3
  else if w = 0x02 ∧ (s.klen = 0 ∨ s.klen.toNat > 256) then 4
  else if (w = 0x12 ∨ w = 0x20 ∨ w = 0x21) ∧ (s.fklen.toNat < 5 ∨ s.fklen.toNat > 16) then 4
  else if w = 0x03 ∧ s.cvalid = false then 5
  else 0

/-- The unmapped addresses of the map of 20_memory.md R84. -/
def unmapped (p : Params) (a : Nat) : Prop :=
  (0x001C ≤ a ∧ a < 0x0020) ∨ (0x0048 ≤ a ∧ a < 0x0080) ∨ (0x0130 ≤ a ∧ a < 0x0140) ∨ (0x0160 ≤ a ∧ a < 0x0200) ∨
  (0x0300 + p.fidSize ≤ a ∧ a < 0x1000) ∨ 0x1000 + p.msgSize ≤ a

/-- `n` steps lead from `s` to `t`, none of them a fault or a refusal. -/
def runsTo (n : Nat) (s t : State) : Prop := Host.Core.run Sys2Proof.core n s = .next t

/-- The state without the parts whose value the spec calls unspecified, the rest as it is: the digest state and the
sequencer's position and temporaries always (R52, R53, R56), `PENDING` while idle (R56), `S`, `i`, `j` while
`CVALID = 0` (R55). -/
def State.specified (s : State) : State :=
  { s with
    digest := State.reset.digest
    seq := State.reset.seq
    pending := if s.busy then s.pending else State.reset.pending
    cipher := if s.cvalid then s.cipher else State.reset.cipher }

/-- Two outcomes agree on everything specified. -/
def sameSpecified : Result → Result → Prop
  | .next s, .next t => s.specified = t.specified
  | .fault a, .fault b => a = b
  | .refused a, .refused b => a = b
  | .next _, .fault _ => False
  | .next _, .refused _ => False
  | .fault _, .next _ => False
  | .fault _, .refused _ => False
  | .refused _, .next _ => False
  | .refused _, .fault _ => False

end Sys2Proof.Machine
end

