-- ==== Sys2Proof/Certificates/Slice0/Obligations.lean ====
section
/-! DEFINITION. The statements about this machine, for the provers. Each docstring names the rule of the spec it rests
on. `s.turn rest`, `response`, `events` and `draws` are the model's own (notes/assumptions, log 1, 3, 4); a free value is
never fixed by a statement: where one is drawn, the statement leaves that field of the next state open. -/

open Sys2Proof Sys2Proof.Machine

/-! ### Encoding -/

/-- The words of R111, written out, decode to the commands they stand for. -/
def Obligations.SpecWordsDecode : Prop :=
  decode 0x00000000 = .ok .nop ∧ decode 0x00000001 = .ok .digest ∧ decode 0x00000002 = .ok .rc4Init ∧
  decode 0x00000003 = .ok .rc4Proc ∧ decode 0x00000004 = .ok (.pad .user) ∧ decode 0x00000104 = .ok (.pad .owner) ∧
  decode 0x00000010 = .ok .deriveOwner ∧ decode 0x00000011 = .ok .deriveFkey ∧ decode 0x00000012 = .ok .deriveUser ∧
  decode 0x00000020 = .ok .objkey ∧ decode 0x00000021 = .ok .encObj

/-- A word decodes to a command exactly when it is that command's word: the round trip, and no other word of the 2^32
decodes (R111, R118). -/
def Obligations.DecodeExactlyInvertsEncode : Prop :=
  ∀ (w : Word) (i : Instr), decode w = .ok i ↔ w = encode i

/-! ### Step -/

/-- The instruction a step fetches is run by `exec`: a legal word written to `CMD` while idle, around which the step only
takes the event away and lets free values be drawn anew; and the command in `PENDING` at the core's turn while busy, which
the core also has when no event is left. -/
def Obligations.StepRunsDecodedCommand : Prop :=
  (∀ (s : State) (w : Word) (i : Instr) (rest : List Event), s.events = .write 0x0000 w :: rest → s.busy = false →
    decode w = .ok i →
    step s = exec i { s with events := rest, response := none, draws := s.draws + 1 }) ∧
  (∀ (s : State) (i : Instr) (rest : List Event), (s.events = .core :: rest ∨ (s.events = [] ∧ rest = [])) →
    s.busy = true → decode s.pending = .ok i →
    step s = exec i { s with events := rest, response := none })

/-- A command word placed with `withFetchWord` is the one the very next step runs, in an idle state and in a busy one. -/
def Obligations.StepRunsPlacedCommand : Prop :=
  ∀ (s : State) (i : Instr),
    (s.busy = false →
      step (s.withFetchWord 32 (encode i).toNat) = exec i { s with response := none, draws := s.draws + 1 }) ∧
    (s.busy = true →
      step (s.withFetchWord 32 (encode i).toNat) =
        exec i { s with response := none, cmd := encode i, pending := encode i })

/-- The core's turn while idle changes nothing (R299: an idle core simply waits). -/
def Obligations.IdleCoreOnlyWaits : Prop :=
  ∀ (s : State) (rest : List Event), (s.events = .core :: rest ∨ (s.events = [] ∧ rest = [])) → s.busy = false →
    step s = .next { s with events := rest, response := none }

/-! ### The life of a command -/

/-- R262: an accepted submission writes `CMD`, `PENDING`, `BUSY`, `DONE` in one event, and nothing else. -/
def Obligations.AcceptanceWritesOnlyTheCommand : Prop :=
  ∀ (s : State) (w : Word) (i : Instr) (rest : List Event), s.events = .write 0x0000 w :: rest → s.busy = false →
    decode w = .ok i → s.submissionError i = none →
    step s = .next { s with
      events := rest, response := none, draws := s.draws + 1
      cmd := w, pending := w, busy := true, done := false }

/-- The same of `exec` and every command: while idle, with its checks passed, it is accepted (R262). -/
def Obligations.EveryCommandIsAccepted : Prop :=
  ∀ (s : State) (i : Instr), s.busy = false → s.submissionError i = none →
    exec i s = .next { s with cmd := encode i, pending := encode i, busy := true, done := false }

/-- R261: a rejected submission changes nothing but `ERR` and `ERRCODE` (those only if `ERR` was 0, R283), whether the
word is illegal or a check of the command fails. -/
def Obligations.RejectionWritesOnlyTheErrorFlags : Prop :=
  ∀ (s : State) (w : Word) (rest : List Event) (e : Error), s.events = .write 0x0000 w :: rest → s.busy = false →
    (((∃ r, decode w = .error r) ∧ e = .opcode) ∨ ∃ i, decode w = .ok i ∧ s.submissionError i = some e) →
    step s = .next { s with
      events := rest, response := none, draws := s.draws + 1
      err := true, errcode := if s.err then s.errcode else e.code }

/-- R285: the complete priority for one `CMD` write, over the words and the registers: the first failing check gives the
code, and with none the command is accepted. The code is recorded if `ERR` was 0 (R283). -/
def Obligations.SubmissionChecksInOrder : Prop :=
  ∀ (s : State) (w : Word) (rest : List Event), s.events = .write 0x0000 w :: rest →
    ∃ t, step s = .next t ∧
      (submissionCode s w = 0 → t.busy = true ∧ t.cmd = w ∧ t.err = s.err ∧ t.errcode = s.errcode) ∧
      (submissionCode s w ≠ 0 →
        t.busy = s.busy ∧ t.cmd = s.cmd ∧ t.err = true ∧
        t.errcode = if s.err then s.errcode else submissionCode s w)

/-! ### Completion, one command at a time. The next state is that of the command's rule, from every busy state whose length
registers passed the checks of R285, as every state a run reaches has (`Inv.busyChecked`). An output whose inputs were not
all written since the last reset is unspecified (R325): a statement leaves it open but for its length (how the model draws
it: log 14). The last clause of each is the frame: every field not named there is as before. `PENDING`, the sequencer's
state and (where a digest was computed) the digest state are unspecified afterwards (R52, R56). -/

/-- `NOP` (R265): nothing but `BUSY` and `DONE`. -/
def Obligations.NopCompletes : Prop :=
  ∀ s : State, s.busy = true → ∃ t, exec .nop s = .next t ∧
    t = { s with busy := false, done := true, pending := t.pending, seq := t.seq, draws := t.draws }

/-- `DIGEST` (R149, R325): `DOUT[0:16] <- MD5(MSG[0:MLEN])`, all of `DOUT` unspecified where a byte of `MSG[0:MLEN]` was
never written. -/
def Obligations.DigestCompletes : Prop :=
  ∀ s : State, s.busy = true → s.mlen.toNat ≤ s.params.msgSize →
    ∃ (t : State) (bs : List Byte), exec .digest s = .next t ∧ bs.length = 16 ∧
      (allWritten s 0x1000 s.mlen.toNat → bs = md5 (s.bytesAt 0x1000 s.mlen.toNat)) ∧
      storedExactly s t 0x0120 bs ∧
      t = { s with
        mem := t.mem, digest := t.digest
        busy := false, done := true, pending := t.pending, seq := t.seq, draws := t.draws }

/-- `RC4_INIT` (R173, R325): the key schedule of `KEY[0:KLEN]`, `CVALID <- 1`; where a key byte was never written the table
is unspecified but for being a permutation (R54), and the cursors are 0 all the same (R171). -/
def Obligations.Rc4InitCompletes : Prop :=
  ∀ s : State, s.busy = true → 1 ≤ s.klen.toNat → s.klen.toNat ≤ 256 → ∃ t, exec .rc4Init s = .next t ∧
    storedNothing s t ∧ isPermutation t.cipher.S ∧ t.cipher.i = 0 ∧ t.cipher.j = 0 ∧
    (allWritten s 0x0200 s.klen.toNat → t.cipher = keySchedule (s.bytesAt 0x0200 s.klen.toNat)) ∧
    t = { s with
      cipher := t.cipher, cvalid := true
      busy := false, done := true, pending := t.pending, seq := t.seq, draws := t.draws }

/-- `RC4_PROC` (R174, R325): `MSG[0:MLEN]` ciphered in place, the cipher state left at its end. Byte `k` of the output is
unspecified where byte `k` of the input was never written; the other output bytes and the cipher state do not depend on it
(`KeystreamIgnoresTheData`). -/
def Obligations.Rc4ProcCompletes : Prop :=
  ∀ s : State, s.busy = true → s.mlen.toNat ≤ s.params.msgSize → s.cvalid = true →
    ∃ (t : State) (bs : List Byte), exec .rc4Proc s = .next t ∧ bs.length = s.mlen.toNat ∧
      (∀ k, allWritten s (0x1000 + k) 1 →
        bs[k]? = (cipherProcess s.cipher (s.bytesAt 0x1000 s.mlen.toNat)).2[k]?) ∧
      storedExactly s t 0x1000 bs ∧
      t = { s with
        mem := t.mem, cipher := (cipherProcess s.cipher (s.bytesAt 0x1000 s.mlen.toNat)).1
        busy := false, done := true, pending := t.pending, seq := t.seq, draws := t.draws }

/-- `PAD` (R202, R201, R325), both values of `SEL`: `PADOUT[0:32] <- BUF[0:n] ‖ PADDING[0 : 32 - n]` with
`n = min(length, 32)`. Byte `k` of the output is unspecified where byte `k` of the password was never written (how the model
draws it: log 6, 14), and is left open here. -/
def Obligations.PadCompletes : Prop :=
  ∀ (s : State) (sel : PasswordSel), s.busy = true →
    ∃ (t : State) (bs : List Byte), exec (.pad sel) s = .next t ∧ bs.length = 32 ∧
      (∀ base n : Nat, (sel, base, n) ∈ ([(.user, 0x0080, min s.upwlen.toNat 32),
          (.owner, 0x00A0, min s.opwlen.toNat 32)] : List (PasswordSel × Nat × Nat)) →
        (∀ k x, k < n → s.cell (base + k) = some x → bs[k]? = some x) ∧ bs.drop n = padding.take (32 - n)) ∧
      storedExactly s t 0x0140 bs ∧
      t = { s with
        mem := t.mem, busy := false, done := true, pending := t.pending, seq := t.seq, draws := t.draws }

/-- `DERIVE_OWNER` (R216, R211, R325): `OVAL` from the two passwords, unspecified where a byte of one was never written;
`CVALID <- 0`, and `S`, `i`, `j` unspecified. -/
def Obligations.DeriveOwnerCompletes : Prop :=
  ∀ s : State, s.busy = true → ∃ (t : State) (bs : List Byte), exec .deriveOwner s = .next t ∧ bs.length = 32 ∧
    (allWritten s 0x00A0 (min s.opwlen.toNat 32) → allWritten s 0x0080 (min s.upwlen.toNat 32) →
      bs = deriveOwnerValue (s.bytesAt 0x00A0 (min s.opwlen.toNat 32)) (s.bytesAt 0x0080 (min s.upwlen.toNat 32))) ∧
    storedExactly s t 0x00C0 bs ∧
    t = { s with
      mem := t.mem, digest := t.digest, cipher := t.cipher, cvalid := false
      busy := false, done := true, pending := t.pending, seq := t.seq, draws := t.draws }

/-- `DERIVE_FKEY` (R217, R212, R325): `FKEY`, unspecified where an input byte was never written; `FKLEN <- 16`. -/
def Obligations.DeriveFkeyCompletes : Prop :=
  ∀ s : State, s.busy = true → s.fidlen.toNat ≤ s.params.fidSize →
    ∃ (t : State) (bs : List Byte), exec .deriveFkey s = .next t ∧ bs.length = 16 ∧
      (allWritten s 0x0080 (min s.upwlen.toNat 32) → allWritten s 0x00C0 32 → allWritten s 0x0300 s.fidlen.toNat →
        bs = deriveFileKey (s.bytesAt 0x0080 (min s.upwlen.toNat 32)) (s.bytesAt 0x00C0 32) s.perm
          (s.bytesAt 0x0300 s.fidlen.toNat)) ∧
      storedExactly s t 0x0100 bs ∧
      t = { s with
        mem := t.mem, digest := t.digest, fklen := 16
        busy := false, done := true, pending := t.pending, seq := t.seq, draws := t.draws }

/-- `DERIVE_USER` (R218, R213, R325): `UVAL`, its first 16 bytes unspecified where an input byte was never written, its last
16 zero always; `CVALID <- 0`, and `S`, `i`, `j` unspecified. -/
def Obligations.DeriveUserCompletes : Prop :=
  ∀ s : State, s.busy = true → s.fidlen.toNat ≤ s.params.fidSize → 5 ≤ s.fklen.toNat → s.fklen.toNat ≤ 16 →
    ∃ (t : State) (bs : List Byte), exec .deriveUser s = .next t ∧ bs.length = 32 ∧ bs.drop 16 = List.replicate 16 0 ∧
      (allWritten s 0x0100 s.fklen.toNat → allWritten s 0x0300 s.fidlen.toNat →
        bs = deriveUserValue (s.bytesAt 0x0100 s.fklen.toNat) (s.bytesAt 0x0300 s.fidlen.toNat)) ∧
      storedExactly s t 0x00E0 bs ∧
      t = { s with
        mem := t.mem, digest := t.digest, cipher := t.cipher, cvalid := false
        busy := false, done := true, pending := t.pending, seq := t.seq, draws := t.draws }

/-- `OBJKEY` (R242, R240, R325): `OKEY[0:n] <- k ; OKEY[n:16] <- zeros ; OKLEN <- n`, `n = min(FKLEN + 5, 16)`, the key `k`
unspecified where a byte of `FKEY[0:FKLEN]` was never written. -/
def Obligations.ObjkeyCompletes : Prop :=
  ∀ s : State, s.busy = true → 5 ≤ s.fklen.toNat → s.fklen.toNat ≤ 16 →
    ∃ (t : State) (key : List Byte), exec .objkey s = .next t ∧ key.length = min (s.fklen.toNat + 5) 16 ∧
      (allWritten s 0x0100 s.fklen.toNat →
        key = objectKey (s.bytesAt 0x0100 s.fklen.toNat) s.objnum.toNat s.gennum.toNat) ∧
      storedExactly s t 0x0110 (key ++ zeros (16 - min (s.fklen.toNat + 5) 16)) ∧
      t = { s with
        mem := t.mem, digest := t.digest, oklen := BitVec.ofNat 32 (min (s.fklen.toNat + 5) 16)
        busy := false, done := true, pending := t.pending, seq := t.seq, draws := t.draws }

/-- `ENC_OBJ` (R243, R240, R241, R325): `OKEY` and `OKLEN` as `OBJKEY`, `MSG[0:MLEN]` encrypted with the per-object key,
the cipher state left at the end of the payload, `CVALID <- 1`. Where a byte of `FKEY[0:FKLEN]` was never written the key,
the payload and the cipher state are unspecified, but that the table is a permutation (R54) and `i` counts the bytes
(R172); where byte `k` of the payload was never written, byte `k` of the output is. -/
def Obligations.EncObjCompletes : Prop :=
  ∀ s : State, s.busy = true → s.mlen.toNat ≤ s.params.msgSize → 5 ≤ s.fklen.toNat → s.fklen.toNat ≤ 16 →
    ∃ (t : State) (key bs : List Byte), exec .encObj s = .next t ∧
      key.length = min (s.fklen.toNat + 5) 16 ∧ bs.length = s.mlen.toNat ∧
      (allWritten s 0x0100 s.fklen.toNat →
        key = objectKey (s.bytesAt 0x0100 s.fklen.toNat) s.objnum.toNat s.gennum.toNat ∧
        (∀ k, allWritten s (0x1000 + k) 1 →
          bs[k]? = (encryptPayload (s.bytesAt 0x1000 s.mlen.toNat) (s.bytesAt 0x0100 s.fklen.toNat) s.objnum.toNat
            s.gennum.toNat)[k]?) ∧
        t.cipher = (cipherProcess (keySchedule key) (s.bytesAt 0x1000 s.mlen.toNat)).1) ∧
      isPermutation t.cipher.S ∧ t.cipher.i = BitVec.ofNat 8 s.mlen.toNat ∧
      (∀ x, t.cell x =
        if 0x0110 ≤ x ∧ x < 0x0120 then (key ++ zeros (16 - min (s.fklen.toNat + 5) 16))[x - 0x0110]?
        else if 0x1000 ≤ x ∧ x < 0x1000 + s.mlen.toNat then bs[x - 0x1000]?
        else s.cell x) ∧
      t = { s with
        mem := t.mem, digest := t.digest, oklen := BitVec.ofNat 32 (min (s.fklen.toNat + 5) 16)
        cipher := t.cipher, cvalid := true
        busy := false, done := true, pending := t.pending, seq := t.seq, draws := t.draws }

/-- A command reads a buffer byte as it was written last; a byte never written since reset is a free value, and the read
is no error (R325). The model's choice of how that value is drawn: log 6. -/
def Obligations.OperandBytesAreReadAsWritten : Prop :=
  ∀ (s : State) (a n k : Nat), k < n →
    (∀ b, s.cell (a + k) = some b → (s.bytesAt a n)[k]? = some b) ∧
    (s.cell (a + k) = none → (s.bytesAt a n)[k]? = some (Config.unwrittenByte s.draws (a + k))) ∧
    (s.bytesAt a n).length = n

/-! ### The functions -/

/-- R141: the padded message fills its blocks; the padding starts with 0x80, holds the least number of zeros, and ends
with the bit length. -/
def Obligations.DigestPaddingFillsBlocks : Prop :=
  ∀ m : List Byte,
    (m ++ digestPadding m.length).length = 64 * blockCount m.length ∧
    (digestPadding m.length).head? = some 0x80 ∧
    (m.length + 1 + padZeros m.length) % 64 = 56 ∧
    (∀ z, (m.length + 1 + z) % 64 = 56 → padZeros m.length ≤ z) ∧
    ((digestPadding m.length).drop 1).take (padZeros m.length) = List.replicate (padZeros m.length) 0 ∧
    blockCount m.length = (m.length + 8) / 64 + 1 ∧
    (digestPadding m.length).drop (1 + padZeros m.length) = bytesLe (8 * m.length % 2 ^ 64) 8

/-- The digest engine of R52 and R53, working block by block on its own registers from whatever an earlier digest left in
them, ends with `MD5(m)` in its running accumulators (R140, R142, R147, R267); and `MD5` gives the reference digests of
the empty string, of `abc` and of 64 bytes 0x61 (two blocks), which fix the constants and rounds of R142 to R146. That
`NBYTES` has then counted the bytes of the padded message is the model's choice (log 18). -/
def Obligations.DigestEngineComputesMd5 : Prop :=
  (∀ (d : DigestState) (m : List Byte),
    digestOutput (d.compute m).h = md5 m ∧ (d.compute m).nbytes = BitVec.ofNat 64 (64 * blockCount m.length)) ∧
  md5 [] = [0xD4, 0x1D, 0x8C, 0xD9, 0x8F, 0x00, 0xB2, 0x04, 0xE9, 0x80, 0x09, 0x98, 0xEC, 0xF8, 0x42, 0x7E] ∧
  md5 [0x61, 0x62, 0x63] =
    [0x90, 0x01, 0x50, 0x98, 0x3C, 0xD2, 0x4F, 0xB0, 0xD6, 0x96, 0x3F, 0x7D, 0x28, 0xE1, 0x7F, 0x72] ∧
  md5 (List.replicate 64 0x61) =
    [0x01, 0x48, 0x42, 0xD4, 0x80, 0xB5, 0x71, 0x49, 0x5A, 0x4A, 0x03, 0x63, 0x79, 0x3F, 0x73, 0x67]

/-- R171: the key schedule is 256 mixing steps from the identity table and the partner 0; step `n` takes the partner
`q' = q + S[n] + key[n mod len]` and swaps `S[n]` and `S[q']`. The table is a permutation of 0..255 after every mixing
step, both cursors are 0 after the key schedule, and every keystream step leaves a permutation (R54). -/
def Obligations.CipherTableStaysAPermutation : Prop :=
  (∀ (n : Nat) (h : n < 256), identityTable[n] = BitVec.ofNat 8 n) ∧
  (∀ (key : List Byte) (S : Vector Byte 256) (q x : Byte) (n : Nat) (h : n < 256), key[n % key.length]? = some x →
    ∃ (S' : Vector Byte 256) (q' : Byte), mixStep key (S, q) n = (S', q') ∧ q' = q + S[n] + x ∧
      S'[n] = S[q'.toNat]'q'.isLt ∧ S'[q'.toNat]'q'.isLt = S[n] ∧
      ∀ (m : Nat) (hm : m < 256), m ≠ n → m ≠ q'.toNat → S'[m] = S[m]) ∧
  (∀ (key : List Byte) (n : Nat), isPermutation ((List.range n).foldl (mixStep key) (identityTable, 0)).1) ∧
  (∀ key : List Byte, (keySchedule key).S = ((List.range 256).foldl (mixStep key) (identityTable, 0)).1 ∧
    isPermutation (keySchedule key).S ∧ (keySchedule key).i = 0 ∧ (keySchedule key).j = 0) ∧
  (∀ (c : CipherState) (data : List Byte), isPermutation c.S → isPermutation (cipherProcess c data).1.S)

/-- R175: decryption is encryption with a fresh instance of the same key, for every key and every data length. -/
def Obligations.CipherIsSymmetric : Prop :=
  ∀ key data : List Byte, rc4 key (rc4 key data) = data

/-- R176: processing `x ‖ y` in one call is processing `x` and then `y` on the same state. -/
def Obligations.CipherContinuesAcrossCalls : Prop :=
  ∀ (c : CipherState) (x y : List Byte),
    cipherProcess c (x ++ y) =
      ((cipherProcess (cipherProcess c x).1 y).1, (cipherProcess c x).2 ++ (cipherProcess (cipherProcess c x).1 y).2)

/-- R172: a keystream step is `i' = i + 1`, `j' = j + S[i']`, the swap of `S[i']` and `S[j']`, and its byte is
`S'[S'[i'] + S'[j']]`; the keystream does not depend on the data: the output is the data XORed with what zero bytes give,
and the state afterwards depends on the length alone. -/
def Obligations.KeystreamIgnoresTheData : Prop :=
  (∀ (c : CipherState) (x : Byte), ∃ (S' : Vector Byte 256) (i' j' n : Byte),
    cipherProcess c [x] = ({ S := S', i := i', j := j' }, [x ^^^ S'[n.toNat]'n.isLt]) ∧
    i' = c.i + 1 ∧ j' = c.j + c.S[i'.toNat]'i'.isLt ∧
    n = S'[i'.toNat]'i'.isLt + S'[j'.toNat]'j'.isLt ∧
    S'[i'.toNat]'i'.isLt = c.S[j'.toNat]'j'.isLt ∧ S'[j'.toNat]'j'.isLt = c.S[i'.toNat]'i'.isLt ∧
    ∀ (m : Nat) (hm : m < 256), m ≠ i'.toNat → m ≠ j'.toNat → S'[m] = c.S[m]) ∧
  ∀ (c : CipherState) (data : List Byte),
    (cipherProcess c data).1 = (cipherProcess c (zeros data.length)).1 ∧
    (cipherProcess c data).2 = List.zipWith (fun x k => x ^^^ k) data (cipherProcess c (zeros data.length)).2

/-- R200, R201: the 32 bytes of `PADDING`; a padded password has 32 bytes; a long password is cut, a short one is filled
from the start of `PADDING`. -/
def Obligations.PaddedPasswordForms : Prop :=
  padding =
    [0x28, 0xBF, 0x4E, 0x5E, 0x4E, 0x75, 0x8A, 0x41, 0x64, 0x00, 0x4E, 0x56, 0xFF, 0xFA, 0x01, 0x08,
      0x2E, 0x2E, 0x00, 0xB6, 0xD0, 0x68, 0x3E, 0x80, 0x2F, 0x0C, 0xA9, 0xFE, 0x64, 0x53, 0x69, 0x7A] ∧
  ∀ p : List Byte, (padPassword p).length = 32 ∧ (32 ≤ p.length → padPassword p = p.take 32) ∧
    (p.length < 32 → padPassword p = p ++ padding.take (32 - p.length)) ∧ padPassword [] = padding

/-- R210: `xorKey` keeps the length, XORs every byte, and does nothing for 0; the rule's example. -/
def Obligations.XorKeyXorsEveryByte : Prop :=
  ∀ (base : List Byte) (k : Byte), (xorKey base k).length = base.length ∧
    (∀ (t : Nat) (b : Byte), base[t]? = some b → (xorKey base k)[t]? = some (b ^^^ k)) ∧ xorKey base 0 = base ∧
    xorKey [0x00, 0x01, 0x02, 0x03, 0xFF] 0x13 = [0x13, 0x12, 0x11, 0x10, 0xEC]

/-- R211, R216: the Owner value is the 20 passes over the padded user password with the base key of 51 digests; it uses
its passwords only up to 32 bytes, and an empty owner password stands for the user's. -/
def Obligations.OwnerValueByItsRule : Prop :=
  ∀ opw upw : List Byte,
    deriveOwnerValue opw upw =
      (List.range 20).foldl
        (fun v k => rc4 (xorKey (md5^[51] (padPassword (if opw = [] then upw else opw))) (BitVec.ofNat 8 k)) v)
        (padPassword upw) ∧
    (deriveOwnerValue opw upw).length = 32 ∧
    deriveOwnerValue (opw.take 32) (upw.take 32) = deriveOwnerValue opw upw ∧
    deriveOwnerValue [] upw = deriveOwnerValue upw upw

/-- R212: the file key is 51 digests, the first over password, Owner value, permissions and file identifier. -/
def Obligations.FileKeyByItsRule : Prop :=
  ∀ (upw oval fid : List Byte) (perm : Word),
    deriveFileKey upw oval perm fid = md5^[51] (padPassword upw ++ oval ++
      [perm.extractLsb 7 0, perm.extractLsb 15 8, perm.extractLsb 23 16, perm.extractLsb 31 24] ++ fid) ∧
    (deriveFileKey upw oval perm fid).length = 16

/-- R213, R214: pass 0 with the file key itself, passes 1 to 19 with the key XORed with the pass number at its own length,
then 16 zero bytes. -/
def Obligations.UserValueByItsRule : Prop :=
  ∀ fkey fid : List Byte,
    deriveUserValue fkey fid =
      (List.range' 1 19).foldl (fun v k => rc4 (xorKey fkey (BitVec.ofNat 8 k)) v) (rc4 fkey (md5 (padding ++ fid)))
        ++ zeros 16 ∧
    (deriveUserValue fkey fid).length = 32 ∧ (deriveUserValue fkey fid).drop 16 = zeros 16 ∧
    ∀ k : Byte, (xorKey fkey k).length = fkey.length

/-- R240: the per-object key is the digest of the file key, the low 24 bits of the object number and the low 16 bits of the
generation number, low byte first, cut to `min(len + 5, 16)` bytes; so two object addresses that agree in those bits give
the same key (R244). -/
def Obligations.ObjectKeyLengthAndAddressBits : Prop :=
  ∀ (fkey : List Byte) (obj gen obj' gen' : Nat),
    objectKey fkey obj gen =
      (md5 (fkey ++ [BitVec.ofNat 8 obj, BitVec.ofNat 8 (obj / 256), BitVec.ofNat 8 (obj / 65536), BitVec.ofNat 8 gen,
        BitVec.ofNat 8 (gen / 256)])).take (min (fkey.length + 5) 16) ∧
    (objectKey fkey obj gen).length = min (fkey.length + 5) 16 ∧
    (obj % 2 ^ 24 = obj' % 2 ^ 24 → gen % 2 ^ 16 = gen' % 2 ^ 16 → objectKey fkey obj gen = objectKey fkey obj' gen')

/-! ### The port -/

/-- R84, R87, R89: an address has no location exactly when it is misaligned or unmapped; every register and every word of
every buffer stands where the table of R84 says. -/
def Obligations.AddressMapIsExact : Prop :=
  ∀ p : Params, p.wf →
    (∀ a : PortAddr, locate p a = none ↔ a.toNat % 4 ≠ 0 ∨ unmapped p a.toNat) ∧
    (∀ (a : PortAddr) (r : Reg),
      (a, r) ∈ ([(0x0000, .cmd), (0x0004, .status), (0x0008, .ctrl), (0x000C, .id), (0x0010, .proto), (0x0014, .cap0),
        (0x0018, .cap1), (0x0020, .mlen), (0x0024, .klen), (0x0028, .upwlen), (0x002C, .opwlen), (0x0030, .fidlen),
        (0x0034, .fklen), (0x0038, .oklen), (0x003C, .perm), (0x0040, .objnum), (0x0044, .gennum)] :
          List (PortAddr × Reg)) →
      locate p a = some (.reg r)) ∧
    (∀ (base size : Nat) (b : Buf) (k : Nat),
      (base, size, b) ∈ ([(0x0080, 32, .upw), (0x00A0, 32, .opw), (0x00C0, 32, .oval), (0x00E0, 32, .uval),
        (0x0100, 16, .fkey), (0x0110, 16, .okey), (0x0120, 16, .dout), (0x0140, 32, .padout), (0x0200, 256, .key),
        (0x0300, p.fidSize, .fid), (0x1000, p.msgSize, .msg)] : List (Nat × Nat × Buf)) →
      k % 4 = 0 → k < size → locate p (BitVec.ofNat 16 (base + k)) = some (.buf b k))

/-- R85, R86, R87, R89: a misaligned or unmapped transaction raises `ERR_ADDR`, busy or not; a read returns 0, a write
stores nothing. -/
def Obligations.RefusedTransactionsRaiseAddr : Prop :=
  ∀ (s : State) (a : PortAddr) (rest : List Event), s.params.wf → a.toNat % 4 ≠ 0 ∨ unmapped s.params a.toNat →
    (s.events = .read a :: rest →
      step s = .next { s with
        events := rest, response := some 0, err := true, errcode := if s.err then s.errcode else 6 }) ∧
    (∀ v, s.events = .write a v :: rest →
      step s = .next { s with
        events := rest, response := none, draws := s.draws + 1
        err := true, errcode := if s.err then s.errcode else 6 })

/-- R85: a live register is read while the core runs as while it is idle, and the read changes nothing; the values of
`STATUS`, `CTRL`, `ID`, `PROTO`, `CAP0`, `CAP1` (R36, R37, R38). -/
def Obligations.LiveRegistersReadAtAnyTime : Prop :=
  ∀ (s : State) (rest : List Event) (a : PortAddr) (w : Word),
    ((a, w) ∈ ([(0x0004, s.statusWord), (0x0008, s.ctrlWord), (0x000C, 0x4D355234), (0x0010, 0x00008003),
      (0x0014, BitVec.ofNat 32 s.params.msgSize), (0x0018, BitVec.ofNat 32 s.params.fidSize)] :
        List (PortAddr × Word))) →
    s.events = .read a :: rest → step s = .next { s with events := rest, response := some w }

/-- R85, R88: a read of an idle-only location while busy returns some word, raises no error and changes nothing. The word
is free: it is left open here. -/
def Obligations.BusyReadChangesNothing : Prop :=
  ∀ (s : State) (rest : List Event) (a : PortAddr) (loc : Location), s.events = .read a :: rest → s.busy = true →
    locate s.params a = some loc → loc.live = false →
    ∃ w t, step s = .next t ∧ t.response = some w ∧
      t = { s with events := rest, response := t.response, draws := t.draws }

/-- R85, R83: an idle read of an idle-only register returns it, zero-extended (R35, R41), and of a buffer word its four
bytes, low address in the low byte; nothing changes. The other registers: `LiveRegistersReadAtAnyTime`. -/
def Obligations.IdleReadReturnsTheLocation : Prop :=
  ∀ (s : State) (rest : List Event) (a : PortAddr), s.events = .read a :: rest → s.busy = false →
    (∀ w, (a, w) ∈ ([(0x0000, s.cmd), (0x0020, s.mlen), (0x0024, s.klen), (0x0028, s.upwlen), (0x002C, s.opwlen),
        (0x0030, s.fidlen), (0x0034, s.fklen), (0x0038, s.oklen), (0x003C, s.perm), (0x0040, s.objnum.setWidth 32),
        (0x0044, s.gennum.setWidth 32)] : List (PortAddr × Word)) →
      step s = .next { s with events := rest, response := some w }) ∧
    (∀ b k b0 b1 b2 b3, locate s.params a = some (.buf b k) →
      s.cell (b.base + k) = some b0 → s.cell (b.base + k + 1) = some b1 → s.cell (b.base + k + 2) = some b2 →
      s.cell (b.base + k + 3) = some b3 →
      step s = .next { s with events := rest, response := some (b3 ++ b2 ++ b1 ++ b0) })

/-- R85: reads are idempotent: repeated with nothing between, a read that is no busy read of an idle-only location returns
the same word, also where a byte was never written. -/
def Obligations.ReadsAreIdempotent : Prop :=
  ∀ (s t u : State) (a : PortAddr) (rest : List Event), s.events = .read a :: .read a :: rest →
    (∀ loc, locate s.params a = some loc → loc.live = true ∨ s.busy = false) →
    step s = .next t → step t = .next u → u.response = t.response

/-- R86: a write to a read-only location is ignored without error, busy or not. -/
def Obligations.ReadOnlyWriteIsIgnored : Prop :=
  ∀ (s : State) (rest : List Event) (a : PortAddr) (v : Word) (loc : Location), s.events = .write a v :: rest →
    locate s.params a = some loc →
    loc ∈ [.reg .id, .reg .proto, .reg .cap0, .reg .cap1, .reg .oklen] ∨
      (∃ k, loc = .buf .uval k ∨ loc = .buf .okey k ∨ loc = .buf .dout k ∨ loc = .buf .padout k) →
    step s = .next { s with events := rest, response := none, draws := s.draws + 1 }

/-- R86, R88: a write to a writable idle-only location while busy is dropped and raises `ERR_BUSY`. -/
def Obligations.BusyWriteRaisesBusy : Prop :=
  ∀ (s : State) (rest : List Event) (a : PortAddr) (v : Word) (loc : Location), s.events = .write a v :: rest →
    s.busy = true → locate s.params a = some loc → loc.readOnly = false → loc ≠ .reg .status → loc ≠ .reg .ctrl →
    step s = .next { s with
      events := rest, response := none, draws := s.draws + 1
      err := true, errcode := if s.err then s.errcode else 1 }

/-- R36, R86, R287: a write to `STATUS`, busy or not: a 1 in bit 1 clears `DONE`, a 1 in bit 2 clears `ERR` and `ERRCODE`,
nothing else changes. -/
def Obligations.StatusWriteClearsFlags : Prop :=
  ∀ (s : State) (rest : List Event) (v : Word), s.events = .write 0x0004 v :: rest →
    step s = .next { s with
      events := rest, response := none, draws := s.draws + 1
      done := s.done && !v.getLsbD 1, err := s.err && !v.getLsbD 2
      errcode := if v.getLsbD 2 then 0 else s.errcode }

/-- R37, R86: a write to `CTRL`, busy or not, stores bits 0 and 1 and nothing else, and a read gives them back with the
other bits 0. -/
def Obligations.CtrlWriteStoresTheEnables : Prop :=
  ∀ (s : State) (rest : List Event) (v : Word), s.events = .write 0x0008 v :: rest →
    ∃ t, step s = .next t ∧ t.ctrlWord = (v &&& 3) ∧
      t = { s with
        events := rest, response := none, draws := s.draws + 1, ieDone := v.getLsbD 0, ieErr := v.getLsbD 1 }

/-- R36: the bits of `STATUS`. -/
def Obligations.StatusWordBits : Prop :=
  ∀ s : State, s.statusWord.getLsbD 0 = s.busy ∧ s.statusWord.getLsbD 1 = s.done ∧ s.statusWord.getLsbD 2 = s.err ∧
    s.statusWord.getLsbD 3 = s.cvalid ∧ s.statusWord.extractLsb 7 4 = 0 ∧ s.statusWord.extractLsb 11 8 = s.errcode ∧
    s.statusWord.extractLsb 31 12 = 0

/-- R59: `irq` from the words the host reads: (`STATUS.DONE` and `CTRL.IE_DONE`) or (`STATUS.ERR` and `CTRL.IE_ERR`). -/
def Obligations.IrqFromStatusAndCtrl : Prop :=
  ∀ s : State, s.irq = ((s.statusWord.getLsbD 1 && s.ctrlWord.getLsbD 0) ||
    (s.statusWord.getLsbD 2 && s.ctrlWord.getLsbD 1))

/-- R31 to R33, R39 to R41, R86: an idle write of an operand register: it then reads as what was written (`OBJNUM` its low
24 bits, `GENNUM` its low 16), every other register and every buffer byte as before, and the engine state is as before. -/
def Obligations.OperandWriteReadsBack : Prop :=
  ∀ (s : State) (rest : List Event) (a : PortAddr) (v : Word) (r : Reg), s.events = .write a v :: rest →
    s.busy = false → locate s.params a = some (.reg r) →
    r ∈ [.mlen, .klen, .upwlen, .opwlen, .fidlen, .fklen, .perm, .objnum, .gennum] →
    ∃ t, step s = .next t ∧
      t.register r = (if r = .objnum then v &&& 0x00FFFFFF else if r = .gennum then v &&& 0x0000FFFF else v) ∧
      (∀ q, q ≠ r → t.register q = s.register q) ∧ storedNothing s t ∧
      t.cipher = s.cipher ∧ t.digest = s.digest ∧ t.pending = s.pending ∧ t.seq = s.seq ∧ t.params = s.params

/-- R83, R86: an idle write of a word of a host-writable buffer stores its four bytes, low byte at the low address, and
nothing else. -/
def Obligations.BufferWriteStoresFourBytes : Prop :=
  ∀ (s : State) (rest : List Event) (a : PortAddr) (v : Word) (b : Buf) (k : Nat), s.events = .write a v :: rest →
    s.busy = false → locate s.params a = some (.buf b k) → b.readOnly = false →
    ∃ t, step s = .next t ∧
      storedExactly s t (b.base + k)
        [v.extractLsb 7 0, v.extractLsb 15 8, v.extractLsb 23 16, v.extractLsb 31 24] ∧
      t = { s with events := rest, response := none, draws := s.draws + 1, mem := t.mem }

/-- R83, R85, R86: a word written to a host-writable buffer while idle reads back, and so does any other word of a buffer
all of whose bytes were written before. -/
def Obligations.BufferWordReadsBack : Prop :=
  ∀ (s t u : State) (rest : List Event) (a a' : PortAddr) (v : Word) (b b' : Buf) (k k' : Nat),
    s.events = .write a v :: .read a' :: rest → s.busy = false → locate s.params a = some (.buf b k) →
    b.readOnly = false → locate s.params a' = some (.buf b' k') → step s = .next t → step t = .next u →
    (a' = a → u.response = some v) ∧
    (a' ≠ a → (∀ n, n < 4 → (s.cell (b'.base + k' + n)).isSome = true) →
      u.response = some (le32 (s.bytesAt (b'.base + k') 4)))

/-! ### Reset -/

/-- R60, R320, R322: right after reset: flags, `CMD`, `CTRL`, every length and operand register 0, no buffer byte written,
`irq` 0, idle, the default parameters of R9. -/
def Obligations.ResetValues : Prop :=
  State.reset.statusWord = 0 ∧ State.reset.ctrlWord = 0 ∧ State.reset.irq = false ∧ State.reset.busy = false ∧
  State.reset.params = { msgSize := 4096, fidSize := 256 } ∧ State.reset.mem = [] ∧
  ∀ r : Reg, r ≠ .id → r ≠ .proto → r ≠ .cap0 → r ≠ .cap1 → State.reset.register r = 0

/-- R320, R321, R322: a reset event in any state, busy or not, leaves every specified piece of state at its reset value:
the command in execution ends without completion. The engine state is unspecified and left open. -/
def Obligations.ResetEventFromAnyState : Prop :=
  ∀ (s : State) (rest : List Event), s.events = .reset :: rest →
    ∃ t, step s = .next t ∧ t.irq = false ∧
      t = { State.reset with
        params := s.params, events := rest, draws := t.draws
        cipher := t.cipher, digest := t.digest, pending := t.pending, seq := t.seq }

/-! ### The whole machine -/

/-- The invariant holds at reset. -/
def Obligations.ResetMeetsTheInvariant : Prop := State.reset.Inv

/-- The invariant is kept by every step, from every state that meets it. -/
def Obligations.StepKeepsTheInvariant : Prop :=
  ∀ s t : State, s.Inv → step s = .next t → t.Inv

/-- No state that meets the invariant stops: every event has a next state (R263: a completion cannot fail). -/
def Obligations.InvariantStatesNeverStop : Prop :=
  ∀ s : State, s.Inv → ∃ t, step s = .next t

/-- R264: a busy core becomes idle after finitely many events. The bound, at the latest one step after the last event given,
is the model's (log 1: the core has the turn when no event is left). -/
def Obligations.BusyCoreBecomesIdle : Prop :=
  ∀ s : State, s.Inv → s.busy = true →
    ∃ n t, n ≤ s.events.length + 1 ∧ runsTo n s t ∧ t.busy = false

/-- R88: while busy, a host transaction changes nothing but `ERR`, `ERRCODE`, `DONE` and the enables: the inputs of the
command in execution, its outputs and the engine state stay as they are. -/
def Obligations.BusyTransactionsLeaveTheCommandAlone : Prop :=
  ∀ (s : State) (rest : List Event) (e : Event), s.events = e :: rest → s.busy = true →
    (∃ a, e = .read a) ∨ (∃ a v, e = .write a v) →
    ∃ t, step s = .next t ∧
      t = { s with
        events := rest, response := t.response, draws := t.draws, err := t.err, errcode := t.errcode, done := t.done
        ieDone := t.ieDone, ieErr := t.ieErr }

/-- R36: `DONE` rises only at a completion, and `BUSY` only at the acceptance of a command written to `CMD`. -/
def Obligations.OnlyCommandsRaiseDoneAndBusy : Prop :=
  ∀ s t : State, step s = .next t →
    (s.done = false → t.done = true →
      s.busy = true ∧ t.busy = false ∧ (s.events = [] ∨ ∃ rest, s.events = .core :: rest)) ∧
    (s.busy = false → t.busy = true →
      ∃ w i rest, s.events = .write 0x0000 w :: rest ∧ decode w = .ok i ∧ s.submissionError i = none ∧
        t.cmd = w ∧ t.pending = w ∧ t.done = false)

/-- R55, R320: `CVALID` rises only at the completion of `RC4_INIT` or `ENC_OBJ` and falls only at that of `DERIVE_OWNER`
or `DERIVE_USER` or at reset; and `S`, `i`, `j` change only at those and at that of `RC4_PROC`. -/
def Obligations.OnlyCipherCommandsTouchTheCipher : Prop :=
  ∀ s t : State, step s = .next t →
    (t.cvalid = true → s.cvalid = false → completes s t .rc4Init ∨ completes s t .encObj) ∧
    (t.cvalid = false → s.cvalid = true →
      (∃ rest, s.events = .reset :: rest) ∨ completes s t .deriveOwner ∨ completes s t .deriveUser) ∧
    (t.cipher ≠ s.cipher →
      (∃ rest, s.events = .reset :: rest) ∨
      ∃ i, completes s t i ∧ i ∈ [.rc4Init, .rc4Proc, .encObj, .deriveOwner, .deriveUser])

/-- R283, R287: the first error is kept: while `ERR = 1`, its code changes only by reset or by the host's write of a 1 to
bit 2 of `STATUS`, which clears both. -/
def Obligations.FirstErrorIsKept : Prop :=
  ∀ s t : State, s.err = true → step s = .next t →
    (t.err = true ∧ t.errcode = s.errcode) ∨
    (t.err = false ∧ t.errcode = 0 ∧
      ((∃ rest, s.events = .reset :: rest) ∨ ∃ v rest, s.events = .write 0x0004 v :: rest ∧ v.getLsbD 2 = true))

/-- U4, U5, R52 to R56: what the spec leaves unspecified is never observed: two states that agree on everything specified
step to outcomes that do, the word returned to the host and `irq` among it. So no value the model has in the engine state
while it is unspecified (those of log 5 at reset among them) can be told from another. -/
def Obligations.UnspecifiedEngineStateIsNeverObserved : Prop :=
  ∀ s u : State, s.Inv → s.specified = u.specified → sameSpecified (step s) (step u)

/-- R241, R243, R175: `ENC_OBJ` run to completion on its own output, with the same key and object address, gives back the
message that was there before. -/
def Obligations.EncObjTwiceRestoresTheMessage : Prop :=
  ∀ s : State, s.busy = false → s.submissionError .encObj = none →
    (∀ k, k < s.fklen.toNat → (s.cell (0x0100 + k)).isSome = true) →
    (∀ k, k < s.mlen.toNat → (s.cell (0x1000 + k)).isSome = true) →
    ∃ s1 s2 s3 s4, exec .encObj s = .next s1 ∧ exec .encObj s1 = .next s2 ∧ exec .encObj s2 = .next s3 ∧
      exec .encObj s3 = .next s4 ∧ s4.busy = false ∧ s4.done = true ∧
      ∀ k, k < s.mlen.toNat → s4.cell (0x1000 + k) = s.cell (0x1000 + k)

/-- R266, R267: the finer model: walking a command's schedule step by step with the temporaries of R56 ends in exactly the
state of the one-event completion. For the seven commands that are no derivation the schedule is empty, the model's choice
(log 13): their clause says no more than that. -/
def Obligations.ScheduleReachesTheCompletion : Prop :=
  ∀ (i : Instr) (s : State), s.busy = true → exec i s = .next (runSchedule i s)
end

