-- ==== Sys2Proof/Laws/State.lean ====
section
/-! SUPPORT. One lemma per field per named update of State, so that no later proof unfolds a record update. The lemmas
about `raise` and `writeStatus` need a case split, the others are true by definition. -/

namespace Sys2Proof.Machine

/-! ### `State.store` -/

@[simp] theorem State.store_params (s : State) (a : Nat) (bs : List Byte) : (s.store a bs).params = s.params := rfl

@[simp] theorem State.store_cmd (s : State) (a : Nat) (bs : List Byte) : (s.store a bs).cmd = s.cmd := rfl

@[simp] theorem State.store_busy (s : State) (a : Nat) (bs : List Byte) : (s.store a bs).busy = s.busy := rfl

@[simp] theorem State.store_done (s : State) (a : Nat) (bs : List Byte) : (s.store a bs).done = s.done := rfl

@[simp] theorem State.store_err (s : State) (a : Nat) (bs : List Byte) : (s.store a bs).err = s.err := rfl

@[simp] theorem State.store_cvalid (s : State) (a : Nat) (bs : List Byte) : (s.store a bs).cvalid = s.cvalid := rfl

@[simp] theorem State.store_errcode (s : State) (a : Nat) (bs : List Byte) : (s.store a bs).errcode = s.errcode := rfl

@[simp] theorem State.store_ieDone (s : State) (a : Nat) (bs : List Byte) : (s.store a bs).ieDone = s.ieDone := rfl

@[simp] theorem State.store_ieErr (s : State) (a : Nat) (bs : List Byte) : (s.store a bs).ieErr = s.ieErr := rfl

@[simp] theorem State.store_mlen (s : State) (a : Nat) (bs : List Byte) : (s.store a bs).mlen = s.mlen := rfl

@[simp] theorem State.store_klen (s : State) (a : Nat) (bs : List Byte) : (s.store a bs).klen = s.klen := rfl

@[simp] theorem State.store_upwlen (s : State) (a : Nat) (bs : List Byte) : (s.store a bs).upwlen = s.upwlen := rfl

@[simp] theorem State.store_opwlen (s : State) (a : Nat) (bs : List Byte) : (s.store a bs).opwlen = s.opwlen := rfl

@[simp] theorem State.store_fidlen (s : State) (a : Nat) (bs : List Byte) : (s.store a bs).fidlen = s.fidlen := rfl

@[simp] theorem State.store_fklen (s : State) (a : Nat) (bs : List Byte) : (s.store a bs).fklen = s.fklen := rfl

@[simp] theorem State.store_oklen (s : State) (a : Nat) (bs : List Byte) : (s.store a bs).oklen = s.oklen := rfl

@[simp] theorem State.store_perm (s : State) (a : Nat) (bs : List Byte) : (s.store a bs).perm = s.perm := rfl

@[simp] theorem State.store_objnum (s : State) (a : Nat) (bs : List Byte) : (s.store a bs).objnum = s.objnum := rfl

@[simp] theorem State.store_gennum (s : State) (a : Nat) (bs : List Byte) : (s.store a bs).gennum = s.gennum := rfl

@[simp] theorem State.store_mem (s : State) (a : Nat) (bs : List Byte) : (s.store a bs).mem = Memory.writeBytes s.mem a bs := rfl

@[simp] theorem State.store_cipher (s : State) (a : Nat) (bs : List Byte) : (s.store a bs).cipher = s.cipher := rfl

@[simp] theorem State.store_digest (s : State) (a : Nat) (bs : List Byte) : (s.store a bs).digest = s.digest := rfl

@[simp] theorem State.store_pending (s : State) (a : Nat) (bs : List Byte) : (s.store a bs).pending = s.pending := rfl

@[simp] theorem State.store_seq (s : State) (a : Nat) (bs : List Byte) : (s.store a bs).seq = s.seq := rfl

@[simp] theorem State.store_events (s : State) (a : Nat) (bs : List Byte) : (s.store a bs).events = s.events := rfl

@[simp] theorem State.store_response (s : State) (a : Nat) (bs : List Byte) : (s.store a bs).response = s.response := rfl

@[simp] theorem State.store_draws (s : State) (a : Nat) (bs : List Byte) : (s.store a bs).draws = s.draws := rfl

/-! ### `State.discardDigest` -/

@[simp] theorem State.discardDigest_params (s : State) : s.discardDigest.params = s.params := rfl

@[simp] theorem State.discardDigest_cmd (s : State) : s.discardDigest.cmd = s.cmd := rfl

@[simp] theorem State.discardDigest_busy (s : State) : s.discardDigest.busy = s.busy := rfl

@[simp] theorem State.discardDigest_done (s : State) : s.discardDigest.done = s.done := rfl

@[simp] theorem State.discardDigest_err (s : State) : s.discardDigest.err = s.err := rfl

@[simp] theorem State.discardDigest_cvalid (s : State) : s.discardDigest.cvalid = s.cvalid := rfl

@[simp] theorem State.discardDigest_errcode (s : State) : s.discardDigest.errcode = s.errcode := rfl

@[simp] theorem State.discardDigest_ieDone (s : State) : s.discardDigest.ieDone = s.ieDone := rfl

@[simp] theorem State.discardDigest_ieErr (s : State) : s.discardDigest.ieErr = s.ieErr := rfl

@[simp] theorem State.discardDigest_mlen (s : State) : s.discardDigest.mlen = s.mlen := rfl

@[simp] theorem State.discardDigest_klen (s : State) : s.discardDigest.klen = s.klen := rfl

@[simp] theorem State.discardDigest_upwlen (s : State) : s.discardDigest.upwlen = s.upwlen := rfl

@[simp] theorem State.discardDigest_opwlen (s : State) : s.discardDigest.opwlen = s.opwlen := rfl

@[simp] theorem State.discardDigest_fidlen (s : State) : s.discardDigest.fidlen = s.fidlen := rfl

@[simp] theorem State.discardDigest_fklen (s : State) : s.discardDigest.fklen = s.fklen := rfl

@[simp] theorem State.discardDigest_oklen (s : State) : s.discardDigest.oklen = s.oklen := rfl

@[simp] theorem State.discardDigest_perm (s : State) : s.discardDigest.perm = s.perm := rfl

@[simp] theorem State.discardDigest_objnum (s : State) : s.discardDigest.objnum = s.objnum := rfl

@[simp] theorem State.discardDigest_gennum (s : State) : s.discardDigest.gennum = s.gennum := rfl

@[simp] theorem State.discardDigest_mem (s : State) : s.discardDigest.mem = s.mem := rfl

@[simp] theorem State.discardDigest_cipher (s : State) : s.discardDigest.cipher = s.cipher := rfl

@[simp] theorem State.discardDigest_digest (s : State) : s.discardDigest.digest = freeDigest s.draws := rfl

@[simp] theorem State.discardDigest_pending (s : State) : s.discardDigest.pending = s.pending := rfl

@[simp] theorem State.discardDigest_seq (s : State) : s.discardDigest.seq = s.seq := rfl

@[simp] theorem State.discardDigest_events (s : State) : s.discardDigest.events = s.events := rfl

@[simp] theorem State.discardDigest_response (s : State) : s.discardDigest.response = s.response := rfl

@[simp] theorem State.discardDigest_draws (s : State) : s.discardDigest.draws = s.draws := rfl

/-! ### `State.loseCipher` -/

@[simp] theorem State.loseCipher_params (s : State) : s.loseCipher.params = s.params := rfl

@[simp] theorem State.loseCipher_cmd (s : State) : s.loseCipher.cmd = s.cmd := rfl

@[simp] theorem State.loseCipher_busy (s : State) : s.loseCipher.busy = s.busy := rfl

@[simp] theorem State.loseCipher_done (s : State) : s.loseCipher.done = s.done := rfl

@[simp] theorem State.loseCipher_err (s : State) : s.loseCipher.err = s.err := rfl

@[simp] theorem State.loseCipher_cvalid (s : State) : s.loseCipher.cvalid = false := rfl

@[simp] theorem State.loseCipher_errcode (s : State) : s.loseCipher.errcode = s.errcode := rfl

@[simp] theorem State.loseCipher_ieDone (s : State) : s.loseCipher.ieDone = s.ieDone := rfl

@[simp] theorem State.loseCipher_ieErr (s : State) : s.loseCipher.ieErr = s.ieErr := rfl

@[simp] theorem State.loseCipher_mlen (s : State) : s.loseCipher.mlen = s.mlen := rfl

@[simp] theorem State.loseCipher_klen (s : State) : s.loseCipher.klen = s.klen := rfl

@[simp] theorem State.loseCipher_upwlen (s : State) : s.loseCipher.upwlen = s.upwlen := rfl

@[simp] theorem State.loseCipher_opwlen (s : State) : s.loseCipher.opwlen = s.opwlen := rfl

@[simp] theorem State.loseCipher_fidlen (s : State) : s.loseCipher.fidlen = s.fidlen := rfl

@[simp] theorem State.loseCipher_fklen (s : State) : s.loseCipher.fklen = s.fklen := rfl

@[simp] theorem State.loseCipher_oklen (s : State) : s.loseCipher.oklen = s.oklen := rfl

@[simp] theorem State.loseCipher_perm (s : State) : s.loseCipher.perm = s.perm := rfl

@[simp] theorem State.loseCipher_objnum (s : State) : s.loseCipher.objnum = s.objnum := rfl

@[simp] theorem State.loseCipher_gennum (s : State) : s.loseCipher.gennum = s.gennum := rfl

@[simp] theorem State.loseCipher_mem (s : State) : s.loseCipher.mem = s.mem := rfl

@[simp] theorem State.loseCipher_cipher (s : State) : s.loseCipher.cipher = freeCipher s.draws := rfl

@[simp] theorem State.loseCipher_digest (s : State) : s.loseCipher.digest = s.digest := rfl

@[simp] theorem State.loseCipher_pending (s : State) : s.loseCipher.pending = s.pending := rfl

@[simp] theorem State.loseCipher_seq (s : State) : s.loseCipher.seq = s.seq := rfl

@[simp] theorem State.loseCipher_events (s : State) : s.loseCipher.events = s.events := rfl

@[simp] theorem State.loseCipher_response (s : State) : s.loseCipher.response = s.response := rfl

@[simp] theorem State.loseCipher_draws (s : State) : s.loseCipher.draws = s.draws := rfl

/-! ### `State.nextDraw` -/

@[simp] theorem State.nextDraw_params (s : State) : s.nextDraw.params = s.params := rfl

@[simp] theorem State.nextDraw_cmd (s : State) : s.nextDraw.cmd = s.cmd := rfl

@[simp] theorem State.nextDraw_busy (s : State) : s.nextDraw.busy = s.busy := rfl

@[simp] theorem State.nextDraw_done (s : State) : s.nextDraw.done = s.done := rfl

@[simp] theorem State.nextDraw_err (s : State) : s.nextDraw.err = s.err := rfl

@[simp] theorem State.nextDraw_cvalid (s : State) : s.nextDraw.cvalid = s.cvalid := rfl

@[simp] theorem State.nextDraw_errcode (s : State) : s.nextDraw.errcode = s.errcode := rfl

@[simp] theorem State.nextDraw_ieDone (s : State) : s.nextDraw.ieDone = s.ieDone := rfl

@[simp] theorem State.nextDraw_ieErr (s : State) : s.nextDraw.ieErr = s.ieErr := rfl

@[simp] theorem State.nextDraw_mlen (s : State) : s.nextDraw.mlen = s.mlen := rfl

@[simp] theorem State.nextDraw_klen (s : State) : s.nextDraw.klen = s.klen := rfl

@[simp] theorem State.nextDraw_upwlen (s : State) : s.nextDraw.upwlen = s.upwlen := rfl

@[simp] theorem State.nextDraw_opwlen (s : State) : s.nextDraw.opwlen = s.opwlen := rfl

@[simp] theorem State.nextDraw_fidlen (s : State) : s.nextDraw.fidlen = s.fidlen := rfl

@[simp] theorem State.nextDraw_fklen (s : State) : s.nextDraw.fklen = s.fklen := rfl

@[simp] theorem State.nextDraw_oklen (s : State) : s.nextDraw.oklen = s.oklen := rfl

@[simp] theorem State.nextDraw_perm (s : State) : s.nextDraw.perm = s.perm := rfl

@[simp] theorem State.nextDraw_objnum (s : State) : s.nextDraw.objnum = s.objnum := rfl

@[simp] theorem State.nextDraw_gennum (s : State) : s.nextDraw.gennum = s.gennum := rfl

@[simp] theorem State.nextDraw_mem (s : State) : s.nextDraw.mem = s.mem := rfl

@[simp] theorem State.nextDraw_cipher (s : State) : s.nextDraw.cipher = s.cipher := rfl

@[simp] theorem State.nextDraw_digest (s : State) : s.nextDraw.digest = s.digest := rfl

@[simp] theorem State.nextDraw_pending (s : State) : s.nextDraw.pending = s.pending := rfl

@[simp] theorem State.nextDraw_seq (s : State) : s.nextDraw.seq = s.seq := rfl

@[simp] theorem State.nextDraw_events (s : State) : s.nextDraw.events = s.events := rfl

@[simp] theorem State.nextDraw_response (s : State) : s.nextDraw.response = s.response := rfl

@[simp] theorem State.nextDraw_draws (s : State) : s.nextDraw.draws = s.draws + 1 := rfl

/-! ### `State.clearError` -/

@[simp] theorem State.clearError_params (s : State) : s.clearError.params = s.params := rfl

@[simp] theorem State.clearError_cmd (s : State) : s.clearError.cmd = s.cmd := rfl

@[simp] theorem State.clearError_busy (s : State) : s.clearError.busy = s.busy := rfl

@[simp] theorem State.clearError_done (s : State) : s.clearError.done = s.done := rfl

@[simp] theorem State.clearError_err (s : State) : s.clearError.err = false := rfl

@[simp] theorem State.clearError_cvalid (s : State) : s.clearError.cvalid = s.cvalid := rfl

@[simp] theorem State.clearError_errcode (s : State) : s.clearError.errcode = 0 := rfl

@[simp] theorem State.clearError_ieDone (s : State) : s.clearError.ieDone = s.ieDone := rfl

@[simp] theorem State.clearError_ieErr (s : State) : s.clearError.ieErr = s.ieErr := rfl

@[simp] theorem State.clearError_mlen (s : State) : s.clearError.mlen = s.mlen := rfl

@[simp] theorem State.clearError_klen (s : State) : s.clearError.klen = s.klen := rfl

@[simp] theorem State.clearError_upwlen (s : State) : s.clearError.upwlen = s.upwlen := rfl

@[simp] theorem State.clearError_opwlen (s : State) : s.clearError.opwlen = s.opwlen := rfl

@[simp] theorem State.clearError_fidlen (s : State) : s.clearError.fidlen = s.fidlen := rfl

@[simp] theorem State.clearError_fklen (s : State) : s.clearError.fklen = s.fklen := rfl

@[simp] theorem State.clearError_oklen (s : State) : s.clearError.oklen = s.oklen := rfl

@[simp] theorem State.clearError_perm (s : State) : s.clearError.perm = s.perm := rfl

@[simp] theorem State.clearError_objnum (s : State) : s.clearError.objnum = s.objnum := rfl

@[simp] theorem State.clearError_gennum (s : State) : s.clearError.gennum = s.gennum := rfl

@[simp] theorem State.clearError_mem (s : State) : s.clearError.mem = s.mem := rfl

@[simp] theorem State.clearError_cipher (s : State) : s.clearError.cipher = s.cipher := rfl

@[simp] theorem State.clearError_digest (s : State) : s.clearError.digest = s.digest := rfl

@[simp] theorem State.clearError_pending (s : State) : s.clearError.pending = s.pending := rfl

@[simp] theorem State.clearError_seq (s : State) : s.clearError.seq = s.seq := rfl

@[simp] theorem State.clearError_events (s : State) : s.clearError.events = s.events := rfl

@[simp] theorem State.clearError_response (s : State) : s.clearError.response = s.response := rfl

@[simp] theorem State.clearError_draws (s : State) : s.clearError.draws = s.draws := rfl

/-! ### `State.clearDone` -/

@[simp] theorem State.clearDone_params (s : State) : s.clearDone.params = s.params := rfl

@[simp] theorem State.clearDone_cmd (s : State) : s.clearDone.cmd = s.cmd := rfl

@[simp] theorem State.clearDone_busy (s : State) : s.clearDone.busy = s.busy := rfl

@[simp] theorem State.clearDone_done (s : State) : s.clearDone.done = false := rfl

@[simp] theorem State.clearDone_err (s : State) : s.clearDone.err = s.err := rfl

@[simp] theorem State.clearDone_cvalid (s : State) : s.clearDone.cvalid = s.cvalid := rfl

@[simp] theorem State.clearDone_errcode (s : State) : s.clearDone.errcode = s.errcode := rfl

@[simp] theorem State.clearDone_ieDone (s : State) : s.clearDone.ieDone = s.ieDone := rfl

@[simp] theorem State.clearDone_ieErr (s : State) : s.clearDone.ieErr = s.ieErr := rfl

@[simp] theorem State.clearDone_mlen (s : State) : s.clearDone.mlen = s.mlen := rfl

@[simp] theorem State.clearDone_klen (s : State) : s.clearDone.klen = s.klen := rfl

@[simp] theorem State.clearDone_upwlen (s : State) : s.clearDone.upwlen = s.upwlen := rfl

@[simp] theorem State.clearDone_opwlen (s : State) : s.clearDone.opwlen = s.opwlen := rfl

@[simp] theorem State.clearDone_fidlen (s : State) : s.clearDone.fidlen = s.fidlen := rfl

@[simp] theorem State.clearDone_fklen (s : State) : s.clearDone.fklen = s.fklen := rfl

@[simp] theorem State.clearDone_oklen (s : State) : s.clearDone.oklen = s.oklen := rfl

@[simp] theorem State.clearDone_perm (s : State) : s.clearDone.perm = s.perm := rfl

@[simp] theorem State.clearDone_objnum (s : State) : s.clearDone.objnum = s.objnum := rfl

@[simp] theorem State.clearDone_gennum (s : State) : s.clearDone.gennum = s.gennum := rfl

@[simp] theorem State.clearDone_mem (s : State) : s.clearDone.mem = s.mem := rfl

@[simp] theorem State.clearDone_cipher (s : State) : s.clearDone.cipher = s.cipher := rfl

@[simp] theorem State.clearDone_digest (s : State) : s.clearDone.digest = s.digest := rfl

@[simp] theorem State.clearDone_pending (s : State) : s.clearDone.pending = s.pending := rfl

@[simp] theorem State.clearDone_seq (s : State) : s.clearDone.seq = s.seq := rfl

@[simp] theorem State.clearDone_events (s : State) : s.clearDone.events = s.events := rfl

@[simp] theorem State.clearDone_response (s : State) : s.clearDone.response = s.response := rfl

@[simp] theorem State.clearDone_draws (s : State) : s.clearDone.draws = s.draws := rfl

/-! ### `State.accept` -/

@[simp] theorem State.accept_params (s : State) (w : Word) : (s.accept w).params = s.params := rfl

@[simp] theorem State.accept_cmd (s : State) (w : Word) : (s.accept w).cmd = w := rfl

@[simp] theorem State.accept_busy (s : State) (w : Word) : (s.accept w).busy = true := rfl

@[simp] theorem State.accept_done (s : State) (w : Word) : (s.accept w).done = false := rfl

@[simp] theorem State.accept_err (s : State) (w : Word) : (s.accept w).err = s.err := rfl

@[simp] theorem State.accept_cvalid (s : State) (w : Word) : (s.accept w).cvalid = s.cvalid := rfl

@[simp] theorem State.accept_errcode (s : State) (w : Word) : (s.accept w).errcode = s.errcode := rfl

@[simp] theorem State.accept_ieDone (s : State) (w : Word) : (s.accept w).ieDone = s.ieDone := rfl

@[simp] theorem State.accept_ieErr (s : State) (w : Word) : (s.accept w).ieErr = s.ieErr := rfl

@[simp] theorem State.accept_mlen (s : State) (w : Word) : (s.accept w).mlen = s.mlen := rfl

@[simp] theorem State.accept_klen (s : State) (w : Word) : (s.accept w).klen = s.klen := rfl

@[simp] theorem State.accept_upwlen (s : State) (w : Word) : (s.accept w).upwlen = s.upwlen := rfl

@[simp] theorem State.accept_opwlen (s : State) (w : Word) : (s.accept w).opwlen = s.opwlen := rfl

@[simp] theorem State.accept_fidlen (s : State) (w : Word) : (s.accept w).fidlen = s.fidlen := rfl

@[simp] theorem State.accept_fklen (s : State) (w : Word) : (s.accept w).fklen = s.fklen := rfl

@[simp] theorem State.accept_oklen (s : State) (w : Word) : (s.accept w).oklen = s.oklen := rfl

@[simp] theorem State.accept_perm (s : State) (w : Word) : (s.accept w).perm = s.perm := rfl

@[simp] theorem State.accept_objnum (s : State) (w : Word) : (s.accept w).objnum = s.objnum := rfl

@[simp] theorem State.accept_gennum (s : State) (w : Word) : (s.accept w).gennum = s.gennum := rfl

@[simp] theorem State.accept_mem (s : State) (w : Word) : (s.accept w).mem = s.mem := rfl

@[simp] theorem State.accept_cipher (s : State) (w : Word) : (s.accept w).cipher = s.cipher := rfl

@[simp] theorem State.accept_digest (s : State) (w : Word) : (s.accept w).digest = s.digest := rfl

@[simp] theorem State.accept_pending (s : State) (w : Word) : (s.accept w).pending = w := rfl

@[simp] theorem State.accept_seq (s : State) (w : Word) : (s.accept w).seq = s.seq := rfl

@[simp] theorem State.accept_events (s : State) (w : Word) : (s.accept w).events = s.events := rfl

@[simp] theorem State.accept_response (s : State) (w : Word) : (s.accept w).response = s.response := rfl

@[simp] theorem State.accept_draws (s : State) (w : Word) : (s.accept w).draws = s.draws := rfl

/-! ### `State.finish` -/

@[simp] theorem State.finish_params (s : State) : s.finish.params = s.params := rfl

@[simp] theorem State.finish_cmd (s : State) : s.finish.cmd = s.cmd := rfl

@[simp] theorem State.finish_busy (s : State) : s.finish.busy = false := rfl

@[simp] theorem State.finish_done (s : State) : s.finish.done = true := rfl

@[simp] theorem State.finish_err (s : State) : s.finish.err = s.err := rfl

@[simp] theorem State.finish_cvalid (s : State) : s.finish.cvalid = s.cvalid := rfl

@[simp] theorem State.finish_errcode (s : State) : s.finish.errcode = s.errcode := rfl

@[simp] theorem State.finish_ieDone (s : State) : s.finish.ieDone = s.ieDone := rfl

@[simp] theorem State.finish_ieErr (s : State) : s.finish.ieErr = s.ieErr := rfl

@[simp] theorem State.finish_mlen (s : State) : s.finish.mlen = s.mlen := rfl

@[simp] theorem State.finish_klen (s : State) : s.finish.klen = s.klen := rfl

@[simp] theorem State.finish_upwlen (s : State) : s.finish.upwlen = s.upwlen := rfl

@[simp] theorem State.finish_opwlen (s : State) : s.finish.opwlen = s.opwlen := rfl

@[simp] theorem State.finish_fidlen (s : State) : s.finish.fidlen = s.fidlen := rfl

@[simp] theorem State.finish_fklen (s : State) : s.finish.fklen = s.fklen := rfl

@[simp] theorem State.finish_oklen (s : State) : s.finish.oklen = s.oklen := rfl

@[simp] theorem State.finish_perm (s : State) : s.finish.perm = s.perm := rfl

@[simp] theorem State.finish_objnum (s : State) : s.finish.objnum = s.objnum := rfl

@[simp] theorem State.finish_gennum (s : State) : s.finish.gennum = s.gennum := rfl

@[simp] theorem State.finish_mem (s : State) : s.finish.mem = s.mem := rfl

@[simp] theorem State.finish_cipher (s : State) : s.finish.cipher = s.cipher := rfl

@[simp] theorem State.finish_digest (s : State) : s.finish.digest = s.digest := rfl

@[simp] theorem State.finish_pending (s : State) : s.finish.pending = Config.pendingWord s.draws := rfl

@[simp] theorem State.finish_seq (s : State) : s.finish.seq = freeSequencer s.draws := rfl

@[simp] theorem State.finish_events (s : State) : s.finish.events = s.events := rfl

@[simp] theorem State.finish_response (s : State) : s.finish.response = s.response := rfl

@[simp] theorem State.finish_draws (s : State) : s.finish.draws = s.draws + 1 := rfl

/-! ### `State.turn` -/

@[simp] theorem State.turn_params (s : State) (rest : List Event) : (s.turn rest).params = s.params := rfl

@[simp] theorem State.turn_cmd (s : State) (rest : List Event) : (s.turn rest).cmd = s.cmd := rfl

@[simp] theorem State.turn_busy (s : State) (rest : List Event) : (s.turn rest).busy = s.busy := rfl

@[simp] theorem State.turn_done (s : State) (rest : List Event) : (s.turn rest).done = s.done := rfl

@[simp] theorem State.turn_err (s : State) (rest : List Event) : (s.turn rest).err = s.err := rfl

@[simp] theorem State.turn_cvalid (s : State) (rest : List Event) : (s.turn rest).cvalid = s.cvalid := rfl

@[simp] theorem State.turn_errcode (s : State) (rest : List Event) : (s.turn rest).errcode = s.errcode := rfl

@[simp] theorem State.turn_ieDone (s : State) (rest : List Event) : (s.turn rest).ieDone = s.ieDone := rfl

@[simp] theorem State.turn_ieErr (s : State) (rest : List Event) : (s.turn rest).ieErr = s.ieErr := rfl

@[simp] theorem State.turn_mlen (s : State) (rest : List Event) : (s.turn rest).mlen = s.mlen := rfl

@[simp] theorem State.turn_klen (s : State) (rest : List Event) : (s.turn rest).klen = s.klen := rfl

@[simp] theorem State.turn_upwlen (s : State) (rest : List Event) : (s.turn rest).upwlen = s.upwlen := rfl

@[simp] theorem State.turn_opwlen (s : State) (rest : List Event) : (s.turn rest).opwlen = s.opwlen := rfl

@[simp] theorem State.turn_fidlen (s : State) (rest : List Event) : (s.turn rest).fidlen = s.fidlen := rfl

@[simp] theorem State.turn_fklen (s : State) (rest : List Event) : (s.turn rest).fklen = s.fklen := rfl

@[simp] theorem State.turn_oklen (s : State) (rest : List Event) : (s.turn rest).oklen = s.oklen := rfl

@[simp] theorem State.turn_perm (s : State) (rest : List Event) : (s.turn rest).perm = s.perm := rfl

@[simp] theorem State.turn_objnum (s : State) (rest : List Event) : (s.turn rest).objnum = s.objnum := rfl

@[simp] theorem State.turn_gennum (s : State) (rest : List Event) : (s.turn rest).gennum = s.gennum := rfl

@[simp] theorem State.turn_mem (s : State) (rest : List Event) : (s.turn rest).mem = s.mem := rfl

@[simp] theorem State.turn_cipher (s : State) (rest : List Event) : (s.turn rest).cipher = s.cipher := rfl

@[simp] theorem State.turn_digest (s : State) (rest : List Event) : (s.turn rest).digest = s.digest := rfl

@[simp] theorem State.turn_pending (s : State) (rest : List Event) : (s.turn rest).pending = s.pending := rfl

@[simp] theorem State.turn_seq (s : State) (rest : List Event) : (s.turn rest).seq = s.seq := rfl

@[simp] theorem State.turn_events (s : State) (rest : List Event) : (s.turn rest).events = rest := rfl

@[simp] theorem State.turn_response (s : State) (rest : List Event) : (s.turn rest).response = none := rfl

@[simp] theorem State.turn_draws (s : State) (rest : List Event) : (s.turn rest).draws = s.draws := rfl

/-! ### `State.answer` -/

@[simp] theorem State.answer_params (s : State) (w : Word) : (s.answer w).params = s.params := rfl

@[simp] theorem State.answer_cmd (s : State) (w : Word) : (s.answer w).cmd = s.cmd := rfl

@[simp] theorem State.answer_busy (s : State) (w : Word) : (s.answer w).busy = s.busy := rfl

@[simp] theorem State.answer_done (s : State) (w : Word) : (s.answer w).done = s.done := rfl

@[simp] theorem State.answer_err (s : State) (w : Word) : (s.answer w).err = s.err := rfl

@[simp] theorem State.answer_cvalid (s : State) (w : Word) : (s.answer w).cvalid = s.cvalid := rfl

@[simp] theorem State.answer_errcode (s : State) (w : Word) : (s.answer w).errcode = s.errcode := rfl

@[simp] theorem State.answer_ieDone (s : State) (w : Word) : (s.answer w).ieDone = s.ieDone := rfl

@[simp] theorem State.answer_ieErr (s : State) (w : Word) : (s.answer w).ieErr = s.ieErr := rfl

@[simp] theorem State.answer_mlen (s : State) (w : Word) : (s.answer w).mlen = s.mlen := rfl

@[simp] theorem State.answer_klen (s : State) (w : Word) : (s.answer w).klen = s.klen := rfl

@[simp] theorem State.answer_upwlen (s : State) (w : Word) : (s.answer w).upwlen = s.upwlen := rfl

@[simp] theorem State.answer_opwlen (s : State) (w : Word) : (s.answer w).opwlen = s.opwlen := rfl

@[simp] theorem State.answer_fidlen (s : State) (w : Word) : (s.answer w).fidlen = s.fidlen := rfl

@[simp] theorem State.answer_fklen (s : State) (w : Word) : (s.answer w).fklen = s.fklen := rfl

@[simp] theorem State.answer_oklen (s : State) (w : Word) : (s.answer w).oklen = s.oklen := rfl

@[simp] theorem State.answer_perm (s : State) (w : Word) : (s.answer w).perm = s.perm := rfl

@[simp] theorem State.answer_objnum (s : State) (w : Word) : (s.answer w).objnum = s.objnum := rfl

@[simp] theorem State.answer_gennum (s : State) (w : Word) : (s.answer w).gennum = s.gennum := rfl

@[simp] theorem State.answer_mem (s : State) (w : Word) : (s.answer w).mem = s.mem := rfl

@[simp] theorem State.answer_cipher (s : State) (w : Word) : (s.answer w).cipher = s.cipher := rfl

@[simp] theorem State.answer_digest (s : State) (w : Word) : (s.answer w).digest = s.digest := rfl

@[simp] theorem State.answer_pending (s : State) (w : Word) : (s.answer w).pending = s.pending := rfl

@[simp] theorem State.answer_seq (s : State) (w : Word) : (s.answer w).seq = s.seq := rfl

@[simp] theorem State.answer_events (s : State) (w : Word) : (s.answer w).events = s.events := rfl

@[simp] theorem State.answer_response (s : State) (w : Word) : (s.answer w).response = some w := rfl

@[simp] theorem State.answer_draws (s : State) (w : Word) : (s.answer w).draws = s.draws := rfl

/-! ### `State.setBuffer` -/

@[simp] theorem State.setBuffer_params (s : State) (b : Buf) (bs : List Byte) : (s.setBuffer b bs).params = s.params := rfl

@[simp] theorem State.setBuffer_cmd (s : State) (b : Buf) (bs : List Byte) : (s.setBuffer b bs).cmd = s.cmd := rfl

@[simp] theorem State.setBuffer_busy (s : State) (b : Buf) (bs : List Byte) : (s.setBuffer b bs).busy = s.busy := rfl

@[simp] theorem State.setBuffer_done (s : State) (b : Buf) (bs : List Byte) : (s.setBuffer b bs).done = s.done := rfl

@[simp] theorem State.setBuffer_err (s : State) (b : Buf) (bs : List Byte) : (s.setBuffer b bs).err = s.err := rfl

@[simp] theorem State.setBuffer_cvalid (s : State) (b : Buf) (bs : List Byte) : (s.setBuffer b bs).cvalid = s.cvalid := rfl

@[simp] theorem State.setBuffer_errcode (s : State) (b : Buf) (bs : List Byte) : (s.setBuffer b bs).errcode = s.errcode := rfl

@[simp] theorem State.setBuffer_ieDone (s : State) (b : Buf) (bs : List Byte) : (s.setBuffer b bs).ieDone = s.ieDone := rfl

@[simp] theorem State.setBuffer_ieErr (s : State) (b : Buf) (bs : List Byte) : (s.setBuffer b bs).ieErr = s.ieErr := rfl

@[simp] theorem State.setBuffer_mlen (s : State) (b : Buf) (bs : List Byte) : (s.setBuffer b bs).mlen = s.mlen := rfl

@[simp] theorem State.setBuffer_klen (s : State) (b : Buf) (bs : List Byte) : (s.setBuffer b bs).klen = s.klen := rfl

@[simp] theorem State.setBuffer_upwlen (s : State) (b : Buf) (bs : List Byte) : (s.setBuffer b bs).upwlen = s.upwlen := rfl

@[simp] theorem State.setBuffer_opwlen (s : State) (b : Buf) (bs : List Byte) : (s.setBuffer b bs).opwlen = s.opwlen := rfl

@[simp] theorem State.setBuffer_fidlen (s : State) (b : Buf) (bs : List Byte) : (s.setBuffer b bs).fidlen = s.fidlen := rfl

@[simp] theorem State.setBuffer_fklen (s : State) (b : Buf) (bs : List Byte) : (s.setBuffer b bs).fklen = s.fklen := rfl

@[simp] theorem State.setBuffer_oklen (s : State) (b : Buf) (bs : List Byte) : (s.setBuffer b bs).oklen = s.oklen := rfl

@[simp] theorem State.setBuffer_perm (s : State) (b : Buf) (bs : List Byte) : (s.setBuffer b bs).perm = s.perm := rfl

@[simp] theorem State.setBuffer_objnum (s : State) (b : Buf) (bs : List Byte) : (s.setBuffer b bs).objnum = s.objnum := rfl

@[simp] theorem State.setBuffer_gennum (s : State) (b : Buf) (bs : List Byte) : (s.setBuffer b bs).gennum = s.gennum := rfl

@[simp] theorem State.setBuffer_mem (s : State) (b : Buf) (bs : List Byte) : (s.setBuffer b bs).mem = Memory.writeBytes s.mem b.base bs := rfl

@[simp] theorem State.setBuffer_cipher (s : State) (b : Buf) (bs : List Byte) : (s.setBuffer b bs).cipher = s.cipher := rfl

@[simp] theorem State.setBuffer_digest (s : State) (b : Buf) (bs : List Byte) : (s.setBuffer b bs).digest = s.digest := rfl

@[simp] theorem State.setBuffer_pending (s : State) (b : Buf) (bs : List Byte) : (s.setBuffer b bs).pending = s.pending := rfl

@[simp] theorem State.setBuffer_seq (s : State) (b : Buf) (bs : List Byte) : (s.setBuffer b bs).seq = s.seq := rfl

@[simp] theorem State.setBuffer_events (s : State) (b : Buf) (bs : List Byte) : (s.setBuffer b bs).events = s.events := rfl

@[simp] theorem State.setBuffer_response (s : State) (b : Buf) (bs : List Byte) : (s.setBuffer b bs).response = s.response := rfl

@[simp] theorem State.setBuffer_draws (s : State) (b : Buf) (bs : List Byte) : (s.setBuffer b bs).draws = s.draws := rfl

/-! ### `State.writeCtrl` -/

@[simp] theorem State.writeCtrl_params (s : State) (v : Word) : (s.writeCtrl v).params = s.params := rfl

@[simp] theorem State.writeCtrl_cmd (s : State) (v : Word) : (s.writeCtrl v).cmd = s.cmd := rfl

@[simp] theorem State.writeCtrl_busy (s : State) (v : Word) : (s.writeCtrl v).busy = s.busy := rfl

@[simp] theorem State.writeCtrl_done (s : State) (v : Word) : (s.writeCtrl v).done = s.done := rfl

@[simp] theorem State.writeCtrl_err (s : State) (v : Word) : (s.writeCtrl v).err = s.err := rfl

@[simp] theorem State.writeCtrl_cvalid (s : State) (v : Word) : (s.writeCtrl v).cvalid = s.cvalid := rfl

@[simp] theorem State.writeCtrl_errcode (s : State) (v : Word) : (s.writeCtrl v).errcode = s.errcode := rfl

@[simp] theorem State.writeCtrl_ieDone (s : State) (v : Word) : (s.writeCtrl v).ieDone = v.getLsbD 0 := rfl

@[simp] theorem State.writeCtrl_ieErr (s : State) (v : Word) : (s.writeCtrl v).ieErr = v.getLsbD 1 := rfl

@[simp] theorem State.writeCtrl_mlen (s : State) (v : Word) : (s.writeCtrl v).mlen = s.mlen := rfl

@[simp] theorem State.writeCtrl_klen (s : State) (v : Word) : (s.writeCtrl v).klen = s.klen := rfl

@[simp] theorem State.writeCtrl_upwlen (s : State) (v : Word) : (s.writeCtrl v).upwlen = s.upwlen := rfl

@[simp] theorem State.writeCtrl_opwlen (s : State) (v : Word) : (s.writeCtrl v).opwlen = s.opwlen := rfl

@[simp] theorem State.writeCtrl_fidlen (s : State) (v : Word) : (s.writeCtrl v).fidlen = s.fidlen := rfl

@[simp] theorem State.writeCtrl_fklen (s : State) (v : Word) : (s.writeCtrl v).fklen = s.fklen := rfl

@[simp] theorem State.writeCtrl_oklen (s : State) (v : Word) : (s.writeCtrl v).oklen = s.oklen := rfl

@[simp] theorem State.writeCtrl_perm (s : State) (v : Word) : (s.writeCtrl v).perm = s.perm := rfl

@[simp] theorem State.writeCtrl_objnum (s : State) (v : Word) : (s.writeCtrl v).objnum = s.objnum := rfl

@[simp] theorem State.writeCtrl_gennum (s : State) (v : Word) : (s.writeCtrl v).gennum = s.gennum := rfl

@[simp] theorem State.writeCtrl_mem (s : State) (v : Word) : (s.writeCtrl v).mem = s.mem := rfl

@[simp] theorem State.writeCtrl_cipher (s : State) (v : Word) : (s.writeCtrl v).cipher = s.cipher := rfl

@[simp] theorem State.writeCtrl_digest (s : State) (v : Word) : (s.writeCtrl v).digest = s.digest := rfl

@[simp] theorem State.writeCtrl_pending (s : State) (v : Word) : (s.writeCtrl v).pending = s.pending := rfl

@[simp] theorem State.writeCtrl_seq (s : State) (v : Word) : (s.writeCtrl v).seq = s.seq := rfl

@[simp] theorem State.writeCtrl_events (s : State) (v : Word) : (s.writeCtrl v).events = s.events := rfl

@[simp] theorem State.writeCtrl_response (s : State) (v : Word) : (s.writeCtrl v).response = s.response := rfl

@[simp] theorem State.writeCtrl_draws (s : State) (v : Word) : (s.writeCtrl v).draws = s.draws := rfl

/-! ### `State.cipherMessage` -/

@[simp] theorem State.cipherMessage_params (s : State) (c : CipherState) : (s.cipherMessage c).params = s.params := rfl

@[simp] theorem State.cipherMessage_cmd (s : State) (c : CipherState) : (s.cipherMessage c).cmd = s.cmd := rfl

@[simp] theorem State.cipherMessage_busy (s : State) (c : CipherState) : (s.cipherMessage c).busy = s.busy := rfl

@[simp] theorem State.cipherMessage_done (s : State) (c : CipherState) : (s.cipherMessage c).done = s.done := rfl

@[simp] theorem State.cipherMessage_err (s : State) (c : CipherState) : (s.cipherMessage c).err = s.err := rfl

@[simp] theorem State.cipherMessage_cvalid (s : State) (c : CipherState) : (s.cipherMessage c).cvalid = s.cvalid := rfl

@[simp] theorem State.cipherMessage_errcode (s : State) (c : CipherState) : (s.cipherMessage c).errcode = s.errcode := rfl

@[simp] theorem State.cipherMessage_ieDone (s : State) (c : CipherState) : (s.cipherMessage c).ieDone = s.ieDone := rfl

@[simp] theorem State.cipherMessage_ieErr (s : State) (c : CipherState) : (s.cipherMessage c).ieErr = s.ieErr := rfl

@[simp] theorem State.cipherMessage_mlen (s : State) (c : CipherState) : (s.cipherMessage c).mlen = s.mlen := rfl

@[simp] theorem State.cipherMessage_klen (s : State) (c : CipherState) : (s.cipherMessage c).klen = s.klen := rfl

@[simp] theorem State.cipherMessage_upwlen (s : State) (c : CipherState) : (s.cipherMessage c).upwlen = s.upwlen := rfl

@[simp] theorem State.cipherMessage_opwlen (s : State) (c : CipherState) : (s.cipherMessage c).opwlen = s.opwlen := rfl

@[simp] theorem State.cipherMessage_fidlen (s : State) (c : CipherState) : (s.cipherMessage c).fidlen = s.fidlen := rfl

@[simp] theorem State.cipherMessage_fklen (s : State) (c : CipherState) : (s.cipherMessage c).fklen = s.fklen := rfl

@[simp] theorem State.cipherMessage_oklen (s : State) (c : CipherState) : (s.cipherMessage c).oklen = s.oklen := rfl

@[simp] theorem State.cipherMessage_perm (s : State) (c : CipherState) : (s.cipherMessage c).perm = s.perm := rfl

@[simp] theorem State.cipherMessage_objnum (s : State) (c : CipherState) : (s.cipherMessage c).objnum = s.objnum := rfl

@[simp] theorem State.cipherMessage_gennum (s : State) (c : CipherState) : (s.cipherMessage c).gennum = s.gennum := rfl

@[simp] theorem State.cipherMessage_mem (s : State) (c : CipherState) : (s.cipherMessage c).mem = Memory.writeBytes s.mem Buf.msg.base (cipherProcess c s.message).2 := rfl

@[simp] theorem State.cipherMessage_cipher (s : State) (c : CipherState) : (s.cipherMessage c).cipher = (cipherProcess c s.message).1 := rfl

@[simp] theorem State.cipherMessage_digest (s : State) (c : CipherState) : (s.cipherMessage c).digest = s.digest := rfl

@[simp] theorem State.cipherMessage_pending (s : State) (c : CipherState) : (s.cipherMessage c).pending = s.pending := rfl

@[simp] theorem State.cipherMessage_seq (s : State) (c : CipherState) : (s.cipherMessage c).seq = s.seq := rfl

@[simp] theorem State.cipherMessage_events (s : State) (c : CipherState) : (s.cipherMessage c).events = s.events := rfl

@[simp] theorem State.cipherMessage_response (s : State) (c : CipherState) : (s.cipherMessage c).response = s.response := rfl

@[simp] theorem State.cipherMessage_draws (s : State) (c : CipherState) : (s.cipherMessage c).draws = s.draws := rfl

/-! ### `State.setObjectKey` -/

@[simp] theorem State.setObjectKey_params (s : State) (k : List Byte) : (s.setObjectKey k).params = s.params := rfl

@[simp] theorem State.setObjectKey_cmd (s : State) (k : List Byte) : (s.setObjectKey k).cmd = s.cmd := rfl

@[simp] theorem State.setObjectKey_busy (s : State) (k : List Byte) : (s.setObjectKey k).busy = s.busy := rfl

@[simp] theorem State.setObjectKey_done (s : State) (k : List Byte) : (s.setObjectKey k).done = s.done := rfl

@[simp] theorem State.setObjectKey_err (s : State) (k : List Byte) : (s.setObjectKey k).err = s.err := rfl

@[simp] theorem State.setObjectKey_cvalid (s : State) (k : List Byte) : (s.setObjectKey k).cvalid = s.cvalid := rfl

@[simp] theorem State.setObjectKey_errcode (s : State) (k : List Byte) : (s.setObjectKey k).errcode = s.errcode := rfl

@[simp] theorem State.setObjectKey_ieDone (s : State) (k : List Byte) : (s.setObjectKey k).ieDone = s.ieDone := rfl

@[simp] theorem State.setObjectKey_ieErr (s : State) (k : List Byte) : (s.setObjectKey k).ieErr = s.ieErr := rfl

@[simp] theorem State.setObjectKey_mlen (s : State) (k : List Byte) : (s.setObjectKey k).mlen = s.mlen := rfl

@[simp] theorem State.setObjectKey_klen (s : State) (k : List Byte) : (s.setObjectKey k).klen = s.klen := rfl

@[simp] theorem State.setObjectKey_upwlen (s : State) (k : List Byte) : (s.setObjectKey k).upwlen = s.upwlen := rfl

@[simp] theorem State.setObjectKey_opwlen (s : State) (k : List Byte) : (s.setObjectKey k).opwlen = s.opwlen := rfl

@[simp] theorem State.setObjectKey_fidlen (s : State) (k : List Byte) : (s.setObjectKey k).fidlen = s.fidlen := rfl

@[simp] theorem State.setObjectKey_fklen (s : State) (k : List Byte) : (s.setObjectKey k).fklen = s.fklen := rfl

@[simp] theorem State.setObjectKey_oklen (s : State) (k : List Byte) : (s.setObjectKey k).oklen = BitVec.ofNat 32 k.length := rfl

@[simp] theorem State.setObjectKey_perm (s : State) (k : List Byte) : (s.setObjectKey k).perm = s.perm := rfl

@[simp] theorem State.setObjectKey_objnum (s : State) (k : List Byte) : (s.setObjectKey k).objnum = s.objnum := rfl

@[simp] theorem State.setObjectKey_gennum (s : State) (k : List Byte) : (s.setObjectKey k).gennum = s.gennum := rfl

@[simp] theorem State.setObjectKey_mem (s : State) (k : List Byte) : (s.setObjectKey k).mem = Memory.writeBytes s.mem Buf.okey.base (k ++ zeros (16 - k.length)) := rfl

@[simp] theorem State.setObjectKey_cipher (s : State) (k : List Byte) : (s.setObjectKey k).cipher = s.cipher := rfl

@[simp] theorem State.setObjectKey_digest (s : State) (k : List Byte) : (s.setObjectKey k).digest = freeDigest s.draws := rfl

@[simp] theorem State.setObjectKey_pending (s : State) (k : List Byte) : (s.setObjectKey k).pending = s.pending := rfl

@[simp] theorem State.setObjectKey_seq (s : State) (k : List Byte) : (s.setObjectKey k).seq = s.seq := rfl

@[simp] theorem State.setObjectKey_events (s : State) (k : List Byte) : (s.setObjectKey k).events = s.events := rfl

@[simp] theorem State.setObjectKey_response (s : State) (k : List Byte) : (s.setObjectKey k).response = s.response := rfl

@[simp] theorem State.setObjectKey_draws (s : State) (k : List Byte) : (s.setObjectKey k).draws = s.draws := rfl

/-! ### `State.scheduleStart` -/

@[simp] theorem State.scheduleStart_params (s : State) : s.scheduleStart.params = s.params := rfl

@[simp] theorem State.scheduleStart_cmd (s : State) : s.scheduleStart.cmd = s.cmd := rfl

@[simp] theorem State.scheduleStart_busy (s : State) : s.scheduleStart.busy = s.busy := rfl

@[simp] theorem State.scheduleStart_done (s : State) : s.scheduleStart.done = s.done := rfl

@[simp] theorem State.scheduleStart_err (s : State) : s.scheduleStart.err = s.err := rfl

@[simp] theorem State.scheduleStart_cvalid (s : State) : s.scheduleStart.cvalid = s.cvalid := rfl

@[simp] theorem State.scheduleStart_errcode (s : State) : s.scheduleStart.errcode = s.errcode := rfl

@[simp] theorem State.scheduleStart_ieDone (s : State) : s.scheduleStart.ieDone = s.ieDone := rfl

@[simp] theorem State.scheduleStart_ieErr (s : State) : s.scheduleStart.ieErr = s.ieErr := rfl

@[simp] theorem State.scheduleStart_mlen (s : State) : s.scheduleStart.mlen = s.mlen := rfl

@[simp] theorem State.scheduleStart_klen (s : State) : s.scheduleStart.klen = s.klen := rfl

@[simp] theorem State.scheduleStart_upwlen (s : State) : s.scheduleStart.upwlen = s.upwlen := rfl

@[simp] theorem State.scheduleStart_opwlen (s : State) : s.scheduleStart.opwlen = s.opwlen := rfl

@[simp] theorem State.scheduleStart_fidlen (s : State) : s.scheduleStart.fidlen = s.fidlen := rfl

@[simp] theorem State.scheduleStart_fklen (s : State) : s.scheduleStart.fklen = s.fklen := rfl

@[simp] theorem State.scheduleStart_oklen (s : State) : s.scheduleStart.oklen = s.oklen := rfl

@[simp] theorem State.scheduleStart_perm (s : State) : s.scheduleStart.perm = s.perm := rfl

@[simp] theorem State.scheduleStart_objnum (s : State) : s.scheduleStart.objnum = s.objnum := rfl

@[simp] theorem State.scheduleStart_gennum (s : State) : s.scheduleStart.gennum = s.gennum := rfl

@[simp] theorem State.scheduleStart_mem (s : State) : s.scheduleStart.mem = s.mem := rfl

@[simp] theorem State.scheduleStart_cipher (s : State) : s.scheduleStart.cipher = s.cipher := rfl

@[simp] theorem State.scheduleStart_digest (s : State) : s.scheduleStart.digest = s.digest := rfl

@[simp] theorem State.scheduleStart_pending (s : State) : s.scheduleStart.pending = s.pending := rfl

@[simp] theorem State.scheduleStart_seq (s : State) : s.scheduleStart.seq = { s.seq with position := 0 } := rfl

@[simp] theorem State.scheduleStart_events (s : State) : s.scheduleStart.events = s.events := rfl

@[simp] theorem State.scheduleStart_response (s : State) : s.scheduleStart.response = s.response := rfl

@[simp] theorem State.scheduleStart_draws (s : State) : s.scheduleStart.draws = s.draws := rfl

/-! ### `State.raise` -/

@[simp] theorem State.raise_params (s : State) (e : Error) : (s.raise e).params = s.params := by
  unfold State.raise; split <;> rfl

@[simp] theorem State.raise_cmd (s : State) (e : Error) : (s.raise e).cmd = s.cmd := by
  unfold State.raise; split <;> rfl

@[simp] theorem State.raise_busy (s : State) (e : Error) : (s.raise e).busy = s.busy := by
  unfold State.raise; split <;> rfl

@[simp] theorem State.raise_done (s : State) (e : Error) : (s.raise e).done = s.done := by
  unfold State.raise; split <;> rfl

@[simp] theorem State.raise_err (s : State) (e : Error) : (s.raise e).err = true := by
  unfold State.raise; split <;> simp_all

@[simp] theorem State.raise_cvalid (s : State) (e : Error) : (s.raise e).cvalid = s.cvalid := by
  unfold State.raise; split <;> rfl

@[simp] theorem State.raise_errcode (s : State) (e : Error) : (s.raise e).errcode = if s.err then s.errcode else e.code := by
  unfold State.raise; split <;> simp_all

@[simp] theorem State.raise_ieDone (s : State) (e : Error) : (s.raise e).ieDone = s.ieDone := by
  unfold State.raise; split <;> rfl

@[simp] theorem State.raise_ieErr (s : State) (e : Error) : (s.raise e).ieErr = s.ieErr := by
  unfold State.raise; split <;> rfl

@[simp] theorem State.raise_mlen (s : State) (e : Error) : (s.raise e).mlen = s.mlen := by
  unfold State.raise; split <;> rfl

@[simp] theorem State.raise_klen (s : State) (e : Error) : (s.raise e).klen = s.klen := by
  unfold State.raise; split <;> rfl

@[simp] theorem State.raise_upwlen (s : State) (e : Error) : (s.raise e).upwlen = s.upwlen := by
  unfold State.raise; split <;> rfl

@[simp] theorem State.raise_opwlen (s : State) (e : Error) : (s.raise e).opwlen = s.opwlen := by
  unfold State.raise; split <;> rfl

@[simp] theorem State.raise_fidlen (s : State) (e : Error) : (s.raise e).fidlen = s.fidlen := by
  unfold State.raise; split <;> rfl

@[simp] theorem State.raise_fklen (s : State) (e : Error) : (s.raise e).fklen = s.fklen := by
  unfold State.raise; split <;> rfl

@[simp] theorem State.raise_oklen (s : State) (e : Error) : (s.raise e).oklen = s.oklen := by
  unfold State.raise; split <;> rfl

@[simp] theorem State.raise_perm (s : State) (e : Error) : (s.raise e).perm = s.perm := by
  unfold State.raise; split <;> rfl

@[simp] theorem State.raise_objnum (s : State) (e : Error) : (s.raise e).objnum = s.objnum := by
  unfold State.raise; split <;> rfl

@[simp] theorem State.raise_gennum (s : State) (e : Error) : (s.raise e).gennum = s.gennum := by
  unfold State.raise; split <;> rfl

@[simp] theorem State.raise_mem (s : State) (e : Error) : (s.raise e).mem = s.mem := by
  unfold State.raise; split <;> rfl

@[simp] theorem State.raise_cipher (s : State) (e : Error) : (s.raise e).cipher = s.cipher := by
  unfold State.raise; split <;> rfl

@[simp] theorem State.raise_digest (s : State) (e : Error) : (s.raise e).digest = s.digest := by
  unfold State.raise; split <;> rfl

@[simp] theorem State.raise_pending (s : State) (e : Error) : (s.raise e).pending = s.pending := by
  unfold State.raise; split <;> rfl

@[simp] theorem State.raise_seq (s : State) (e : Error) : (s.raise e).seq = s.seq := by
  unfold State.raise; split <;> rfl

@[simp] theorem State.raise_events (s : State) (e : Error) : (s.raise e).events = s.events := by
  unfold State.raise; split <;> rfl

@[simp] theorem State.raise_response (s : State) (e : Error) : (s.raise e).response = s.response := by
  unfold State.raise; split <;> rfl

@[simp] theorem State.raise_draws (s : State) (e : Error) : (s.raise e).draws = s.draws := by
  unfold State.raise; split <;> rfl

/-! ### `State.writeStatus` -/

@[simp] theorem State.writeStatus_params (s : State) (v : Word) : (s.writeStatus v).params = s.params := by
  unfold State.writeStatus; dsimp only; split <;> split <;> rfl

@[simp] theorem State.writeStatus_cmd (s : State) (v : Word) : (s.writeStatus v).cmd = s.cmd := by
  unfold State.writeStatus; dsimp only; split <;> split <;> rfl

@[simp] theorem State.writeStatus_busy (s : State) (v : Word) : (s.writeStatus v).busy = s.busy := by
  unfold State.writeStatus; dsimp only; split <;> split <;> rfl

@[simp] theorem State.writeStatus_done (s : State) (v : Word) : (s.writeStatus v).done = if v.getLsbD 1 then false else s.done := by
  unfold State.writeStatus; dsimp only; split <;> split <;> rfl

@[simp] theorem State.writeStatus_err (s : State) (v : Word) : (s.writeStatus v).err = if v.getLsbD 2 then false else s.err := by
  unfold State.writeStatus; dsimp only; split <;> split <;> rfl

@[simp] theorem State.writeStatus_cvalid (s : State) (v : Word) : (s.writeStatus v).cvalid = s.cvalid := by
  unfold State.writeStatus; dsimp only; split <;> split <;> rfl

@[simp] theorem State.writeStatus_errcode (s : State) (v : Word) : (s.writeStatus v).errcode = if v.getLsbD 2 then 0 else s.errcode := by
  unfold State.writeStatus; dsimp only; split <;> split <;> rfl

@[simp] theorem State.writeStatus_ieDone (s : State) (v : Word) : (s.writeStatus v).ieDone = s.ieDone := by
  unfold State.writeStatus; dsimp only; split <;> split <;> rfl

@[simp] theorem State.writeStatus_ieErr (s : State) (v : Word) : (s.writeStatus v).ieErr = s.ieErr := by
  unfold State.writeStatus; dsimp only; split <;> split <;> rfl

@[simp] theorem State.writeStatus_mlen (s : State) (v : Word) : (s.writeStatus v).mlen = s.mlen := by
  unfold State.writeStatus; dsimp only; split <;> split <;> rfl

@[simp] theorem State.writeStatus_klen (s : State) (v : Word) : (s.writeStatus v).klen = s.klen := by
  unfold State.writeStatus; dsimp only; split <;> split <;> rfl

@[simp] theorem State.writeStatus_upwlen (s : State) (v : Word) : (s.writeStatus v).upwlen = s.upwlen := by
  unfold State.writeStatus; dsimp only; split <;> split <;> rfl

@[simp] theorem State.writeStatus_opwlen (s : State) (v : Word) : (s.writeStatus v).opwlen = s.opwlen := by
  unfold State.writeStatus; dsimp only; split <;> split <;> rfl

@[simp] theorem State.writeStatus_fidlen (s : State) (v : Word) : (s.writeStatus v).fidlen = s.fidlen := by
  unfold State.writeStatus; dsimp only; split <;> split <;> rfl

@[simp] theorem State.writeStatus_fklen (s : State) (v : Word) : (s.writeStatus v).fklen = s.fklen := by
  unfold State.writeStatus; dsimp only; split <;> split <;> rfl

@[simp] theorem State.writeStatus_oklen (s : State) (v : Word) : (s.writeStatus v).oklen = s.oklen := by
  unfold State.writeStatus; dsimp only; split <;> split <;> rfl

@[simp] theorem State.writeStatus_perm (s : State) (v : Word) : (s.writeStatus v).perm = s.perm := by
  unfold State.writeStatus; dsimp only; split <;> split <;> rfl

@[simp] theorem State.writeStatus_objnum (s : State) (v : Word) : (s.writeStatus v).objnum = s.objnum := by
  unfold State.writeStatus; dsimp only; split <;> split <;> rfl

@[simp] theorem State.writeStatus_gennum (s : State) (v : Word) : (s.writeStatus v).gennum = s.gennum := by
  unfold State.writeStatus; dsimp only; split <;> split <;> rfl

@[simp] theorem State.writeStatus_mem (s : State) (v : Word) : (s.writeStatus v).mem = s.mem := by
  unfold State.writeStatus; dsimp only; split <;> split <;> rfl

@[simp] theorem State.writeStatus_cipher (s : State) (v : Word) : (s.writeStatus v).cipher = s.cipher := by
  unfold State.writeStatus; dsimp only; split <;> split <;> rfl

@[simp] theorem State.writeStatus_digest (s : State) (v : Word) : (s.writeStatus v).digest = s.digest := by
  unfold State.writeStatus; dsimp only; split <;> split <;> rfl

@[simp] theorem State.writeStatus_pending (s : State) (v : Word) : (s.writeStatus v).pending = s.pending := by
  unfold State.writeStatus; dsimp only; split <;> split <;> rfl

@[simp] theorem State.writeStatus_seq (s : State) (v : Word) : (s.writeStatus v).seq = s.seq := by
  unfold State.writeStatus; dsimp only; split <;> split <;> rfl

@[simp] theorem State.writeStatus_events (s : State) (v : Word) : (s.writeStatus v).events = s.events := by
  unfold State.writeStatus; dsimp only; split <;> split <;> rfl

@[simp] theorem State.writeStatus_response (s : State) (v : Word) : (s.writeStatus v).response = s.response := by
  unfold State.writeStatus; dsimp only; split <;> split <;> rfl

@[simp] theorem State.writeStatus_draws (s : State) (v : Word) : (s.writeStatus v).draws = s.draws := by
  unfold State.writeStatus; dsimp only; split <;> split <;> rfl

/-! ### `State.writeOperand`: only the operand register it names -/

@[simp] theorem State.writeOperand_params (s : State) (r : Reg) (v : Word) : (s.writeOperand r v).params = s.params := by
  cases r <;> rfl

@[simp] theorem State.writeOperand_cmd (s : State) (r : Reg) (v : Word) : (s.writeOperand r v).cmd = s.cmd := by
  cases r <;> rfl

@[simp] theorem State.writeOperand_busy (s : State) (r : Reg) (v : Word) : (s.writeOperand r v).busy = s.busy := by
  cases r <;> rfl

@[simp] theorem State.writeOperand_done (s : State) (r : Reg) (v : Word) : (s.writeOperand r v).done = s.done := by
  cases r <;> rfl

@[simp] theorem State.writeOperand_err (s : State) (r : Reg) (v : Word) : (s.writeOperand r v).err = s.err := by
  cases r <;> rfl

@[simp] theorem State.writeOperand_cvalid (s : State) (r : Reg) (v : Word) : (s.writeOperand r v).cvalid = s.cvalid := by
  cases r <;> rfl

@[simp] theorem State.writeOperand_errcode (s : State) (r : Reg) (v : Word) : (s.writeOperand r v).errcode = s.errcode := by
  cases r <;> rfl

@[simp] theorem State.writeOperand_ieDone (s : State) (r : Reg) (v : Word) : (s.writeOperand r v).ieDone = s.ieDone := by
  cases r <;> rfl

@[simp] theorem State.writeOperand_ieErr (s : State) (r : Reg) (v : Word) : (s.writeOperand r v).ieErr = s.ieErr := by
  cases r <;> rfl

@[simp] theorem State.writeOperand_oklen (s : State) (r : Reg) (v : Word) : (s.writeOperand r v).oklen = s.oklen := by
  cases r <;> rfl

@[simp] theorem State.writeOperand_mem (s : State) (r : Reg) (v : Word) : (s.writeOperand r v).mem = s.mem := by
  cases r <;> rfl

@[simp] theorem State.writeOperand_cipher (s : State) (r : Reg) (v : Word) : (s.writeOperand r v).cipher = s.cipher := by
  cases r <;> rfl

@[simp] theorem State.writeOperand_digest (s : State) (r : Reg) (v : Word) : (s.writeOperand r v).digest = s.digest := by
  cases r <;> rfl

@[simp] theorem State.writeOperand_pending (s : State) (r : Reg) (v : Word) : (s.writeOperand r v).pending = s.pending := by
  cases r <;> rfl

@[simp] theorem State.writeOperand_seq (s : State) (r : Reg) (v : Word) : (s.writeOperand r v).seq = s.seq := by
  cases r <;> rfl

@[simp] theorem State.writeOperand_events (s : State) (r : Reg) (v : Word) : (s.writeOperand r v).events = s.events := by
  cases r <;> rfl

@[simp] theorem State.writeOperand_response (s : State) (r : Reg) (v : Word) : (s.writeOperand r v).response = s.response := by
  cases r <;> rfl

@[simp] theorem State.writeOperand_draws (s : State) (r : Reg) (v : Word) : (s.writeOperand r v).draws = s.draws := by
  cases r <;> rfl

/-! ### `State.resetEvent` -/

@[simp] theorem State.resetEvent_params (s : State) : s.resetEvent.params = s.params := rfl

@[simp] theorem State.resetEvent_cmd (s : State) : s.resetEvent.cmd = 0 := rfl

@[simp] theorem State.resetEvent_busy (s : State) : s.resetEvent.busy = false := rfl

@[simp] theorem State.resetEvent_done (s : State) : s.resetEvent.done = false := rfl

@[simp] theorem State.resetEvent_err (s : State) : s.resetEvent.err = false := rfl

@[simp] theorem State.resetEvent_cvalid (s : State) : s.resetEvent.cvalid = false := rfl

@[simp] theorem State.resetEvent_errcode (s : State) : s.resetEvent.errcode = 0 := rfl

@[simp] theorem State.resetEvent_ieDone (s : State) : s.resetEvent.ieDone = false := rfl

@[simp] theorem State.resetEvent_ieErr (s : State) : s.resetEvent.ieErr = false := rfl

@[simp] theorem State.resetEvent_mlen (s : State) : s.resetEvent.mlen = 0 := rfl

@[simp] theorem State.resetEvent_klen (s : State) : s.resetEvent.klen = 0 := rfl

@[simp] theorem State.resetEvent_upwlen (s : State) : s.resetEvent.upwlen = 0 := rfl

@[simp] theorem State.resetEvent_opwlen (s : State) : s.resetEvent.opwlen = 0 := rfl

@[simp] theorem State.resetEvent_fidlen (s : State) : s.resetEvent.fidlen = 0 := rfl

@[simp] theorem State.resetEvent_fklen (s : State) : s.resetEvent.fklen = 0 := rfl

@[simp] theorem State.resetEvent_oklen (s : State) : s.resetEvent.oklen = 0 := rfl

@[simp] theorem State.resetEvent_perm (s : State) : s.resetEvent.perm = 0 := rfl

@[simp] theorem State.resetEvent_objnum (s : State) : s.resetEvent.objnum = 0 := rfl

@[simp] theorem State.resetEvent_gennum (s : State) : s.resetEvent.gennum = 0 := rfl

@[simp] theorem State.resetEvent_mem (s : State) : s.resetEvent.mem = [] := rfl

@[simp] theorem State.resetEvent_cipher (s : State) : s.resetEvent.cipher = freeCipher s.draws := rfl

@[simp] theorem State.resetEvent_digest (s : State) : s.resetEvent.digest = freeDigest s.draws := rfl

@[simp] theorem State.resetEvent_pending (s : State) : s.resetEvent.pending = Config.pendingWord s.draws := rfl

@[simp] theorem State.resetEvent_seq (s : State) : s.resetEvent.seq = freeSequencer s.draws := rfl

@[simp] theorem State.resetEvent_events (s : State) : s.resetEvent.events = s.events := rfl

@[simp] theorem State.resetEvent_response (s : State) : s.resetEvent.response = none := rfl

@[simp] theorem State.resetEvent_draws (s : State) : s.resetEvent.draws = s.draws + 1 := rfl

end Sys2Proof.Machine
end

