-- ==== Sys2Proof/Laws/Memory.lean ====
section
/-! SUPPORT. The laws of memory: a read after a write, what a write leaves alone, the canonical form, and that equal
reads make equal memories. -/

namespace Sys2Proof.Machine

@[simp] theorem Memory.read_nil (a : Nat) : Memory.read [] a = none := rfl

theorem Memory.read_cons (k : Nat) (b : Byte) (rest : List Host.Cell) (a : Nat) :
    Memory.read ((k, b) :: rest) a = if k = a then some b else Memory.read rest a := rfl

/-- A read after a write of one byte. -/
theorem Memory.read_write (m : List Host.Cell) (a : Nat) (b : Byte) (x : Nat) :
    Memory.read (Memory.write m a b) x = if x = a then some b else Memory.read m x := by
  induction m with
  | nil => simp [Memory.write, Memory.read, eq_comm]
  | cons c rest ih =>
    obtain ⟨k, c⟩ := c
    simp only [Memory.write]
    split
    · simp [Memory.read_cons, eq_comm]
    · split
      · subst_vars
        simp only [Memory.read_cons, eq_comm (a := x)]
        split <;> simp_all
      · simp only [Memory.read_cons, ih]
        split <;> split <;> simp_all

theorem Memory.read_write_same (m : List Host.Cell) (a : Nat) (b : Byte) :
    Memory.read (Memory.write m a b) a = some b := by simp [Memory.read_write]

theorem Memory.read_write_other {a x : Nat} (h : x ≠ a) (m : List Host.Cell) (b : Byte) :
    Memory.read (Memory.write m a b) x = Memory.read m x := by simp [Memory.read_write, h]

/-- A read after a write of several bytes. -/
theorem Memory.read_writeBytes (m : List Host.Cell) (a : Nat) (bs : List Byte) (x : Nat) :
    Memory.read (Memory.writeBytes m a bs) x =
      if a ≤ x ∧ x < a + bs.length then bs[x - a]? else Memory.read m x := by
  induction bs generalizing m a with
  | nil => simp [Memory.writeBytes]
  | cons b bs ih =>
    simp only [Memory.writeBytes, ih, Memory.read_write, List.length_cons]
    by_cases hx : x = a
    · subst hx; simp
    · by_cases h : a + 1 ≤ x ∧ x < a + 1 + bs.length
      · have : x - a = (x - (a + 1)) + 1 := by omega
        simp [h, this, show a ≤ x ∧ x < a + (bs.length + 1) by omega]
      · rw [if_neg h, if_neg hx, if_neg (by omega)]

/-- The addresses listed after a write of one byte. -/
theorem Memory.address_of_mem_write {m : List Host.Cell} {a : Nat} {b : Byte} {c : Host.Cell}
    (h : c ∈ Memory.write m a b) : c.1 = a ∨ c ∈ m := by
  induction m with
  | nil => simp_all [Memory.write]
  | cons d rest ih =>
    obtain ⟨k, d⟩ := d
    simp only [Memory.write] at h
    split at h
    · simp only [List.mem_cons] at h ⊢
      rcases h with rfl | h
      · exact .inl rfl
      · exact .inr h
    · split at h
      · simp only [List.mem_cons] at h ⊢
        rcases h with rfl | h
        · exact .inl rfl
        · exact .inr (.inr h)
      · simp only [List.mem_cons] at h ⊢
        rcases h with rfl | h
        · exact .inr (.inl rfl)
        · exact (ih h).imp_right .inr

/-- The addresses listed after a write of several bytes. -/
theorem Memory.address_of_mem_writeBytes {m : List Host.Cell} {a : Nat} {bs : List Byte} {c : Host.Cell}
    (h : c ∈ Memory.writeBytes m a bs) : (a ≤ c.1 ∧ c.1 < a + bs.length) ∨ c ∈ m := by
  induction bs generalizing m a with
  | nil => exact .inr h
  | cons b bs ih =>
    rcases ih h with h | h
    · left; simp only [List.length_cons]; omega
    · rcases Memory.address_of_mem_write h with h | h
      · left; simp only [List.length_cons]; omega
      · exact .inr h

theorem Memory.wf_nil : Memory.wf [] := List.Pairwise.nil

/-- A write keeps the canonical form. -/
theorem Memory.wf_write {m : List Host.Cell} (h : Memory.wf m) (a : Nat) (b : Byte) : Memory.wf (Memory.write m a b) := by
  induction m with
  | nil => simp [Memory.write]
  | cons c rest ih =>
    obtain ⟨k, c⟩ := c
    obtain ⟨hk, hr⟩ := List.pairwise_cons.1 h
    simp only [Memory.write]
    split
    · rename_i hlt
      refine List.pairwise_cons.2 ⟨fun d hd => ?_, h⟩
      rcases List.mem_cons.1 hd with rfl | hd
      · exact hlt
      · exact Nat.lt_trans hlt (hk d hd)
    · split
      · rename_i hka
        exact List.pairwise_cons.2 ⟨fun d hd => hka ▸ hk d hd, hr⟩
      · refine List.pairwise_cons.2 ⟨fun d hd => ?_, ih hr⟩
        rcases Memory.address_of_mem_write hd with e | hd
        · simp only; omega
        · exact hk d hd

theorem Memory.wf_writeBytes {m : List Host.Cell} (h : Memory.wf m) (a : Nat) (bs : List Byte) :
    Memory.wf (Memory.writeBytes m a bs) := by
  induction bs generalizing m a with
  | nil => exact h
  | cons b bs ih => exact ih (Memory.wf_write h a b) (a + 1)

/-- A byte is found at every listed address, and only there. -/
theorem Memory.read_isSome_iff (m : List Host.Cell) (a : Nat) : (Memory.read m a).isSome ↔ ∃ c ∈ m, c.1 = a := by
  induction m with
  | nil => simp
  | cons c rest ih =>
    obtain ⟨k, c⟩ := c
    simp only [Memory.read_cons, List.mem_cons, exists_eq_or_imp]
    split <;> simp_all

/-- The canonical form is canonical: equal reads make equal memories. -/
theorem Memory.ext {m n : List Host.Cell} (hm : Memory.wf m) (hn : Memory.wf n)
    (h : ∀ a, Memory.read m a = Memory.read n a) : m = n := by
  induction m generalizing n with
  | nil =>
    cases n with
    | nil => rfl
    | cons c rest => have := h c.1; simp [Memory.read] at this
  | cons c m ih =>
    obtain ⟨k, c⟩ := c
    cases n with
    | nil => have := h k; simp [Memory.read] at this
    | cons d n =>
      obtain ⟨l, d⟩ := d
      obtain ⟨hk, hm⟩ := List.pairwise_cons.1 hm
      obtain ⟨hl, hn'⟩ := List.pairwise_cons.1 hn
      have none_of_le : ∀ {p : List Host.Cell} {a : Nat}, (∀ c ∈ p, a < c.1) → Memory.read p a = none := by
        intro p a hp
        by_contra hs
        obtain ⟨c, hc, rfl⟩ := (Memory.read_isSome_iff p a).1 (Option.isSome_iff_ne_none.2 hs)
        exact Nat.lt_irrefl _ (hp c hc)
      have hkl : k = l := by
        rcases Nat.lt_trichotomy k l with hlt | e | hlt
        · have := h k
          rw [Memory.read_cons, if_pos rfl, Memory.read_cons, if_neg (by omega),
            none_of_le fun c hc => Nat.lt_trans hlt (hl c hc)] at this
          exact absurd this (by simp)
        · exact e
        · have := h l
          rw [Memory.read_cons, if_neg (by omega), Memory.read_cons, if_pos rfl,
            none_of_le fun c hc => Nat.lt_trans hlt (hk c hc)] at this
          exact absurd this (by simp)
      subst hkl
      have hcd : c = d := by have := h k; simpa [Memory.read_cons] using this
      subst hcd
      refine congrArg _ (ih hm hn' fun a => ?_)
      by_cases hka : k = a
      · subst hka; rw [none_of_le hk, none_of_le hl]
      · have := h a; simpa [Memory.read_cons, hka] using this

/-! ### Cells of a state -/

theorem State.cell_store (s : State) (a : Nat) (bs : List Byte) (x : Nat) :
    (s.store a bs).cell x = if a ≤ x ∧ x < a + bs.length then bs[x - a]? else s.cell x :=
  Memory.read_writeBytes s.mem a bs x

theorem State.cell_setBuffer (s : State) (b : Buf) (bs : List Byte) (x : Nat) :
    (s.setBuffer b bs).cell x = if b.base ≤ x ∧ x < b.base + bs.length then bs[x - b.base]? else s.cell x :=
  s.cell_store b.base bs x

theorem State.byteAt_of_cell {s : State} {a : Nat} {b : Byte} (h : s.cell a = some b) : s.byteAt a = b := by
  simp [State.byteAt, h]

theorem State.byteAt_of_unwritten {s : State} {a : Nat} (h : s.cell a = none) :
    s.byteAt a = Config.unwrittenByte s.draws a := by simp [State.byteAt, h]

@[simp] theorem State.length_bytesAt (s : State) (a n : Nat) : (s.bytesAt a n).length = n := by simp [State.bytesAt]

theorem State.getElem?_bytesAt (s : State) (a n k : Nat) (h : k < n) : (s.bytesAt a n)[k]? = some (s.byteAt (a + k)) := by
  simp [State.bytesAt, h]

/-- Two states read the same bytes where they hold the same cells and draw the same free values. -/
theorem State.bytesAt_congr {s t : State} {a n : Nat} (hd : s.draws = t.draws)
    (h : ∀ k, k < n → s.cell (a + k) = t.cell (a + k)) : s.bytesAt a n = t.bytesAt a n := by
  unfold State.bytesAt
  refine List.map_congr_left fun k hk => ?_
  have hk : k < n := List.mem_range.1 hk
  unfold State.byteAt
  rw [h k hk, hd]

@[simp] theorem State.length_buffer (s : State) (b : Buf) (n : Nat) : (s.buffer b n).length = n :=
  s.length_bytesAt b.base n

end Sys2Proof.Machine
end

