-- ==== Sys2Proof/Laws/Bytes.lean ====
section
/-! SUPPORT. The laws of byte strings: byte order, and the length of what each function of the spec returns. -/

namespace Sys2Proof.Machine

@[simp] theorem length_bytesLe (v n : Nat) : (bytesLe v n).length = n := by simp [bytesLe]

theorem getElem?_bytesLe (v n k : Nat) (h : k < n) : (bytesLe v n)[k]? = some (BitVec.ofNat 8 (v / 256 ^ k)) := by
  simp [bytesLe, h]

@[simp] theorem length_zeros (n : Nat) : (zeros n).length = n := by simp [zeros]

/-- `le32(b)` is the sum R12 gives. -/
theorem toNat_le32 (b : List Byte) : (le32 b).toNat =
    (b.getD 0 0).toNat + 256 * (b.getD 1 0).toNat + 65536 * (b.getD 2 0).toNat + 16777216 * (b.getD 3 0).toNat := by
  generalize h0 : b.getD 0 0 = b0
  generalize h1 : b.getD 1 0 = b1
  generalize h2 : b.getD 2 0 = b2
  generalize h3 : b.getD 3 0 = b3
  have e : (le32 b).toNat = ((b3 ++ b2 ++ b1 ++ b0 : BitVec (8 + 8 + 8 + 8))).toNat := by
    rw [← h0, ← h1, ← h2, ← h3]; rfl
  have l0 := b0.isLt
  have l1 := b1.isLt
  have l2 := b2.isLt
  rw [e, BitVec.toNat_append, BitVec.toNat_append, BitVec.toNat_append, ← Nat.shiftLeft_add_eq_or_of_lt l2,
    ← Nat.shiftLeft_add_eq_or_of_lt l1, ← Nat.shiftLeft_add_eq_or_of_lt l0]
  simp only [Nat.shiftLeft_eq]
  omega

/-- `le32` undoes `bytes_le(·, 4)` (R12). -/
theorem le32_bytesLe (v : Word) : le32 (bytesLe v.toNat 4) = v := by
  have h : v.toNat < 4294967296 := v.isLt
  apply BitVec.eq_of_toNat_eq
  rw [toNat_le32]
  simp [bytesLe, List.range_succ]
  omega

@[simp] theorem length_padding : padding.length = 32 := rfl

@[simp] theorem length_padPassword (p : List Byte) : (padPassword p).length = 32 := by
  simp only [padPassword, List.length_append, List.length_take, length_padding]; omega

@[simp] theorem length_digestOutput (h : Accumulators) : (digestOutput h).length = 16 := by simp [digestOutput]

@[simp] theorem length_md5 (m : List Byte) : (md5 m).length = 16 := length_digestOutput _

@[simp] theorem length_cipherProcess (c : CipherState) (d : List Byte) : (cipherProcess c d).2.length = d.length := by
  induction d generalizing c with
  | nil => rfl
  | cons x xs ih => simp [cipherProcess, ih]

@[simp] theorem length_rc4 (k d : List Byte) : (rc4 k d).length = d.length := length_cipherProcess _ _

@[simp] theorem length_xorKey (b : List Byte) (k : Byte) : (xorKey b k).length = b.length := by simp [xorKey]

theorem length_redigest (n : Nat) (h : List Byte) (hl : h.length = 16) : (redigest n h).length = 16 := by
  induction n generalizing h with
  | zero => exact hl
  | succ n ih => exact ih _ (length_md5 _)

@[simp] theorem length_cipherPasses (b : List Byte) (n : Nat) (v : List Byte) : (cipherPasses b n v).length = v.length := by
  unfold cipherPasses
  induction List.range n generalizing v with
  | nil => rfl
  | cons k ks ih => simp [ih]

@[simp] theorem length_deriveOwnerValue (o u : List Byte) : (deriveOwnerValue o u).length = 32 := by
  simp [deriveOwnerValue]

@[simp] theorem length_deriveFileKey (u o : List Byte) (p : Word) (f : List Byte) : (deriveFileKey u o p f).length = 16 := by
  simp [deriveFileKey, length_redigest]

@[simp] theorem length_userValueHead (k f : List Byte) : (userValueHead k f).length = 16 := by simp [userValueHead]

@[simp] theorem length_deriveUserValue (k f : List Byte) : (deriveUserValue k f).length = 32 := by simp [deriveUserValue]

@[simp] theorem length_objectKey (k : List Byte) (o g : Nat) : (objectKey k o g).length = min (k.length + 5) 16 := by
  simp [objectKey]

@[simp] theorem length_encryptPayload (d k : List Byte) (o g : Nat) : (encryptPayload d k o g).length = d.length :=
  length_rc4 _ _

@[simp] theorem State.length_message (s : State) : s.message.length = s.mlen.toNat := s.length_buffer _ _

@[simp] theorem State.length_fileKey (s : State) : s.fileKey.length = s.fklen.toNat := s.length_buffer _ _

@[simp] theorem State.length_currentObjectKey (s : State) : s.currentObjectKey.length = min (s.fklen.toNat + 5) 16 := by
  simp [State.currentObjectKey]

@[simp] theorem length_freeOutput (d a n : Nat) : (freeOutput d a n).length = n := by simp [freeOutput]

/-! ### Outputs that may depend on bytes never written (R325) -/

@[simp] theorem length_resultBytes (s : State) (b : Buf) (w : Bool) (bs : List Byte) :
    (s.resultBytes b w bs).length = bs.length := by
  unfold State.resultBytes; split <;> simp

@[simp] theorem resultBytes_of_written (s : State) (b : Buf) (bs : List Byte) : s.resultBytes b true bs = bs := rfl

@[simp] theorem length_newOwnerValue (s : State) : s.newOwnerValue.length = 32 := by simp [State.newOwnerValue]

@[simp] theorem length_newFileKey (s : State) : s.newFileKey.length = 16 := by simp [State.newFileKey]

@[simp] theorem length_newUserValue (s : State) : s.newUserValue.length = 32 := by simp [State.newUserValue]

@[simp] theorem State.length_newObjectKey (s : State) : s.newObjectKey.length = min (s.fklen.toNat + 5) 16 := by
  simp [State.newObjectKey]

@[simp] theorem State.length_encryptedMessage (s : State) : s.encryptedMessage.length = s.mlen.toNat := by
  simp [State.encryptedMessage]

theorem State.written_iff (s : State) (a n : Nat) :
    s.written a n = true ↔ ∀ k, k < n → (s.cell (a + k)).isSome = true := by simp [State.written]

theorem State.bufferWritten_of {s : State} {b : Buf} {n : Nat} (h : allWritten s b.base n) :
    s.bufferWritten b n = true := (s.written_iff _ _).2 h

/-- The password the base key is made from was written if both were. -/
theorem State.effectivePasswordWritten_of {s : State} (ho : s.bufferWritten .opw (min s.opwlen.toNat 32) = true)
    (hu : s.userPasswordWritten = true) : s.effectivePasswordWritten = true := by
  unfold State.effectivePasswordWritten; split <;> assumption

/-- `i` counts the bytes processed (R172). -/
theorem cipherProcess_i (c : CipherState) (d : List Byte) : (cipherProcess c d).1.i = c.i + BitVec.ofNat 8 d.length := by
  induction d generalizing c with
  | nil => exact (BitVec.add_zero _).symm
  | cons x xs ih =>
    simp only [cipherProcess, ih, cipherStep, List.length_cons, BitVec.ofNat_add]
    rw [BitVec.add_assoc, BitVec.add_comm 1]; rfl

/-- Swapping two entries of a table leaves a permutation of it. -/
theorem swapEntries_perm (S : Vector Byte 256) (x y : Byte) : (swapEntries S x y).Perm S := Vector.swap_perm x.isLt y.isLt

/-- A table built by mixing steps from a permutation is one. -/
theorem mixStep_perm {key : List Byte} {c : Vector Byte 256 × Byte} (n : Nat) (h : isPermutation c.1) :
    isPermutation (mixStep key c n).1 := (swapEntries_perm _ _ _).trans h

theorem cipherStep_perm {c : CipherState} (h : isPermutation c.S) : isPermutation (cipherStep c).S :=
  (swapEntries_perm _ _ _).trans h

theorem identityTable_perm : isPermutation identityTable := Vector.Perm.refl _

/-- The first of several re-digests of a 16-byte value is its digest (R211). -/
theorem redigest_one {h : List Byte} (hl : h.length = 16) (n : Nat) : redigest (n + 1) h = redigest n (md5 h) := by
  rw [redigest, List.take_of_length_le (Nat.le_of_eq hl)]

/-- A register holds the bytes it was loaded with. -/
theorem toList_toRegister {n : Nat} {b : List Byte} (h : b.length = n) : (toRegister n b).toList = b := by
  subst h
  apply List.ext_getElem
  · simp
  · intro i _ _
    simp [toRegister]

/-- `bytes_le(v, n)` depends on `v` modulo `256^n` only (R12, R244). -/
theorem bytesLe_congr {v w n : Nat} (h : v % 256 ^ n = w % 256 ^ n) : bytesLe v n = bytesLe w n := by
  unfold bytesLe
  refine List.map_congr_left fun k hk => ?_
  have hk : k < n := List.mem_range.1 hk
  apply BitVec.eq_of_toNat_eq
  simp only [BitVec.toNat_ofNat]
  have e : (256 : Nat) ^ n = 256 ^ k * 256 ^ (n - k) := by rw [← Nat.pow_add]; congr 1; omega
  have d : 256 ∣ 256 ^ (n - k) := dvd_pow_self _ (by omega)
  have f : ∀ x : Nat, x / 256 ^ k % 2 ^ 8 = (x % 256 ^ n) / 256 ^ k % 256 := by
    intro x
    rw [e, Nat.mod_mul_right_div_self, Nat.mod_mod_of_dvd _ d]; rfl
  rw [f, f, h]

/-- The last of several re-digests of a 16-byte value (R211). -/
theorem redigest_succ (n : Nat) {h : List Byte} (hl : h.length = 16) : redigest (n + 1) h = md5 (redigest n h) := by
  induction n generalizing h with
  | zero => rw [redigest_one hl]; rfl
  | succ n ih => rw [redigest_one hl, ih (length_md5 _), redigest_one hl]

/-- The last of several cipher passes (R211, R213). -/
theorem cipherPasses_succ (b : List Byte) (n : Nat) (v : List Byte) :
    cipherPasses b (n + 1) v = rc4 (xorKey b (BitVec.ofNat 8 n)) (cipherPasses b n v) := by
  unfold cipherPasses; rw [List.range_succ, List.foldl_append]; rfl

/-- The first bytes of a register are the bytes it was loaded with. -/
theorem take_toRegister {n k : Nat} {v : List Byte} (h : v.length = k) (hk : k ≤ n) :
    (toRegister n v).toList.take k = v := by
  apply List.ext_getElem
  · simp [h, hk]
  · intro i _ h2
    simp [toRegister, h2]

/-- The four bytes of a word, low byte first (R12). -/
theorem bytesLe_word (v : Word) : bytesLe v.toNat 4 =
    [v.extractLsb 7 0, v.extractLsb 15 8, v.extractLsb 23 16, v.extractLsb 31 24] := by
  have := v.isLt
  simp only [bytesLe, show List.range 4 = [0, 1, 2, 3] from rfl, List.map, List.cons.injEq, and_true]
  refine ⟨?_, ?_, ?_, ?_⟩ <;> (apply BitVec.eq_of_toNat_eq; simp [Nat.shiftRight_eq_div_pow])

/-- A command word is its three fields (30_encoding.md R110). -/
theorem word_eq_of_fields {w v : Word} (h1 : opField w = opField v) (h2 : selField w = selField v)
    (h3 : rsvField w = rsvField v) : w = v := by
  unfold opField selField rsvField at *
  have a := congrArg BitVec.toNat h1
  have b := congrArg BitVec.toNat h2
  have c := congrArg BitVec.toNat h3
  simp at a b c
  apply BitVec.eq_of_toNat_eq
  have := w.isLt
  have := v.isLt
  simp only [Nat.shiftRight_eq_div_pow] at *
  omega

end Sys2Proof.Machine
end

