-- ==== Sys2Proof/Laws/Command.lean ====
section
/-! SUPPORT. The life of a command, said once: what `exec` does while idle and while busy, and what a completion writes. -/

namespace Sys2Proof.Machine

/-- The writes "at completion" of a command's rule (10_state.md R61). -/
def completion : Instr → State → State
  | .nop => completeNop
  | .digest => completeDigest
  | .rc4Init => completeRc4Init
  | .rc4Proc => completeRc4Proc
  | .pad sel => completePad sel
  | .deriveOwner => completeDeriveOwner
  | .deriveFkey => completeDeriveFkey
  | .deriveUser => completeDeriveUser
  | .objkey => completeObjkey
  | .encObj => completeEncObj

/-- Every arm of `exec` is the shared life of a command over that command's own completion. -/
theorem exec_eq_runCommand (i : Instr) (s : State) : exec i s = runCommand i (completion i) s := by cases i <;> rfl

theorem runCommand_busy {i : Instr} {f : State → State} {s : State} (h : s.busy = true) :
    runCommand i f s = .next (f s).finish := by simp [runCommand, h]

theorem runCommand_accepts {i : Instr} {f : State → State} {s : State} (h : s.busy = false)
    (hc : s.submissionError i = none) : runCommand i f s = .next (s.accept (encode i)) := by simp [runCommand, h, hc]

theorem runCommand_rejects {i : Instr} {f : State → State} {s : State} {e : Error} (h : s.busy = false)
    (hc : s.submissionError i = some e) : runCommand i f s = .next (s.raise e) := by simp [runCommand, h, hc]

/-- Everything `exec` can do: complete while busy; reject or accept while idle. -/
theorem exec_cases (i : Instr) (s : State) :
    (s.busy = true ∧ exec i s = .next (completion i s).finish) ∨
    (s.busy = false ∧ (∃ e, s.submissionError i = some e ∧ exec i s = .next (s.raise e))) ∨
    (s.busy = false ∧ s.submissionError i = none ∧ exec i s = .next (s.accept (encode i))) := by
  rw [exec_eq_runCommand]
  cases hb : s.busy with
  | true => exact .inl ⟨rfl, runCommand_busy hb⟩
  | false =>
    cases hc : s.submissionError i with
    | some e => exact .inr (.inl ⟨rfl, e, rfl, runCommand_rejects hb hc⟩)
    | none => exact .inr (.inr ⟨rfl, rfl, runCommand_accepts hb hc⟩)

/-- Raising an error writes `ERR` and `ERRCODE` only, and only if `ERR` is 0. -/
theorem State.raise_of_clear {s : State} (h : s.err = false) (e : Error) :
    s.raise e = { s with err := true, errcode := e.code } := by simp [State.raise, h]

theorem State.raise_of_set {s : State} (h : s.err = true) (e : Error) : s.raise e = s := by simp [State.raise, h]

/-- Raising an error as one record (R283). -/
theorem State.raise_eq (s : State) (e : Error) :
    s.raise e = { s with err := true, errcode := if s.err then s.errcode else e.code } := by
  cases h : s.err
  · simp [State.raise_of_clear h]
  · rw [State.raise_of_set h]; simp [← h]

/-! ### What a completion leaves alone (R61) -/

@[simp] theorem completion_params (i : Instr) (s : State) : (completion i s).params = s.params := by
  cases i <;> simp [completion, completeNop, completeDigest, completeRc4Init, completeRc4Proc, completePad, completeDeriveOwner,
    completeDeriveFkey, completeDeriveUser, completeObjkey, completeEncObj]

@[simp] theorem completion_cmd (i : Instr) (s : State) : (completion i s).cmd = s.cmd := by
  cases i <;> simp [completion, completeNop, completeDigest, completeRc4Init, completeRc4Proc, completePad, completeDeriveOwner,
    completeDeriveFkey, completeDeriveUser, completeObjkey, completeEncObj]

@[simp] theorem completion_busy (i : Instr) (s : State) : (completion i s).busy = s.busy := by
  cases i <;> simp [completion, completeNop, completeDigest, completeRc4Init, completeRc4Proc, completePad, completeDeriveOwner,
    completeDeriveFkey, completeDeriveUser, completeObjkey, completeEncObj]

@[simp] theorem completion_done (i : Instr) (s : State) : (completion i s).done = s.done := by
  cases i <;> simp [completion, completeNop, completeDigest, completeRc4Init, completeRc4Proc, completePad, completeDeriveOwner,
    completeDeriveFkey, completeDeriveUser, completeObjkey, completeEncObj]

@[simp] theorem completion_err (i : Instr) (s : State) : (completion i s).err = s.err := by
  cases i <;> simp [completion, completeNop, completeDigest, completeRc4Init, completeRc4Proc, completePad, completeDeriveOwner,
    completeDeriveFkey, completeDeriveUser, completeObjkey, completeEncObj]

@[simp] theorem completion_errcode (i : Instr) (s : State) : (completion i s).errcode = s.errcode := by
  cases i <;> simp [completion, completeNop, completeDigest, completeRc4Init, completeRc4Proc, completePad, completeDeriveOwner,
    completeDeriveFkey, completeDeriveUser, completeObjkey, completeEncObj]

@[simp] theorem completion_ieDone (i : Instr) (s : State) : (completion i s).ieDone = s.ieDone := by
  cases i <;> simp [completion, completeNop, completeDigest, completeRc4Init, completeRc4Proc, completePad, completeDeriveOwner,
    completeDeriveFkey, completeDeriveUser, completeObjkey, completeEncObj]

@[simp] theorem completion_ieErr (i : Instr) (s : State) : (completion i s).ieErr = s.ieErr := by
  cases i <;> simp [completion, completeNop, completeDigest, completeRc4Init, completeRc4Proc, completePad, completeDeriveOwner,
    completeDeriveFkey, completeDeriveUser, completeObjkey, completeEncObj]

@[simp] theorem completion_mlen (i : Instr) (s : State) : (completion i s).mlen = s.mlen := by
  cases i <;> simp [completion, completeNop, completeDigest, completeRc4Init, completeRc4Proc, completePad, completeDeriveOwner,
    completeDeriveFkey, completeDeriveUser, completeObjkey, completeEncObj]

@[simp] theorem completion_klen (i : Instr) (s : State) : (completion i s).klen = s.klen := by
  cases i <;> simp [completion, completeNop, completeDigest, completeRc4Init, completeRc4Proc, completePad, completeDeriveOwner,
    completeDeriveFkey, completeDeriveUser, completeObjkey, completeEncObj]

@[simp] theorem completion_upwlen (i : Instr) (s : State) : (completion i s).upwlen = s.upwlen := by
  cases i <;> simp [completion, completeNop, completeDigest, completeRc4Init, completeRc4Proc, completePad, completeDeriveOwner,
    completeDeriveFkey, completeDeriveUser, completeObjkey, completeEncObj]

@[simp] theorem completion_opwlen (i : Instr) (s : State) : (completion i s).opwlen = s.opwlen := by
  cases i <;> simp [completion, completeNop, completeDigest, completeRc4Init, completeRc4Proc, completePad, completeDeriveOwner,
    completeDeriveFkey, completeDeriveUser, completeObjkey, completeEncObj]

@[simp] theorem completion_fidlen (i : Instr) (s : State) : (completion i s).fidlen = s.fidlen := by
  cases i <;> simp [completion, completeNop, completeDigest, completeRc4Init, completeRc4Proc, completePad, completeDeriveOwner,
    completeDeriveFkey, completeDeriveUser, completeObjkey, completeEncObj]

@[simp] theorem completion_perm (i : Instr) (s : State) : (completion i s).perm = s.perm := by
  cases i <;> simp [completion, completeNop, completeDigest, completeRc4Init, completeRc4Proc, completePad, completeDeriveOwner,
    completeDeriveFkey, completeDeriveUser, completeObjkey, completeEncObj]

@[simp] theorem completion_objnum (i : Instr) (s : State) : (completion i s).objnum = s.objnum := by
  cases i <;> simp [completion, completeNop, completeDigest, completeRc4Init, completeRc4Proc, completePad, completeDeriveOwner,
    completeDeriveFkey, completeDeriveUser, completeObjkey, completeEncObj]

@[simp] theorem completion_gennum (i : Instr) (s : State) : (completion i s).gennum = s.gennum := by
  cases i <;> simp [completion, completeNop, completeDigest, completeRc4Init, completeRc4Proc, completePad, completeDeriveOwner,
    completeDeriveFkey, completeDeriveUser, completeObjkey, completeEncObj]

@[simp] theorem completion_pending (i : Instr) (s : State) : (completion i s).pending = s.pending := by
  cases i <;> simp [completion, completeNop, completeDigest, completeRc4Init, completeRc4Proc, completePad, completeDeriveOwner,
    completeDeriveFkey, completeDeriveUser, completeObjkey, completeEncObj]

@[simp] theorem completion_seq (i : Instr) (s : State) : (completion i s).seq = s.seq := by
  cases i <;> simp [completion, completeNop, completeDigest, completeRc4Init, completeRc4Proc, completePad, completeDeriveOwner,
    completeDeriveFkey, completeDeriveUser, completeObjkey, completeEncObj]

@[simp] theorem completion_events (i : Instr) (s : State) : (completion i s).events = s.events := by
  cases i <;> simp [completion, completeNop, completeDigest, completeRc4Init, completeRc4Proc, completePad, completeDeriveOwner,
    completeDeriveFkey, completeDeriveUser, completeObjkey, completeEncObj]

@[simp] theorem completion_response (i : Instr) (s : State) : (completion i s).response = s.response := by
  cases i <;> simp [completion, completeNop, completeDigest, completeRc4Init, completeRc4Proc, completePad, completeDeriveOwner,
    completeDeriveFkey, completeDeriveUser, completeObjkey, completeEncObj]

@[simp] theorem completion_draws (i : Instr) (s : State) : (completion i s).draws = s.draws := by
  cases i <;> simp [completion, completeNop, completeDigest, completeRc4Init, completeRc4Proc, completePad, completeDeriveOwner,
    completeDeriveFkey, completeDeriveUser, completeObjkey, completeEncObj]

/-- A completion's effect writes at most: memory, `FKLEN`, `OKLEN`, `CVALID`, the cipher state, the digest state. -/
theorem completion_frame (i : Instr) (s : State) :
    completion i s = { s with
      mem := (completion i s).mem
      fklen := (completion i s).fklen
      oklen := (completion i s).oklen
      cvalid := (completion i s).cvalid
      cipher := (completion i s).cipher
      digest := (completion i s).digest } := by
  rw [State.mk.injEq]
  simp

/-! ### What each completion writes (R61): one equation per command, and its memory byte by byte -/

theorem completeNop_eq (s : State) : completeNop s = s := rfl

theorem completeDigest_eq (s : State) : completeDigest s =
    { s with
      mem := Memory.writeBytes s.mem Buf.dout.base (s.resultBytes .dout s.messageWritten (md5 s.message))
      digest := freeDigest s.draws } := rfl

theorem completeDigest_cell (s : State) (x : Nat) : (completeDigest s).cell x =
    if Buf.dout.base ≤ x ∧ x < Buf.dout.base + 16 then
      (s.resultBytes .dout s.messageWritten (md5 s.message))[x - Buf.dout.base]?
    else s.cell x := by
  unfold State.cell; rw [completeDigest_eq, Memory.read_writeBytes, length_resultBytes, length_md5]

theorem completeRc4Init_eq (s : State) : completeRc4Init s =
    { s with
      cipher := if s.cipherKeyWritten then keySchedule s.cipherKey else unknownKeyCipher s.draws 0
      cvalid := true } := rfl

theorem completeRc4Proc_eq (s : State) : completeRc4Proc s =
    { s with
      mem := Memory.writeBytes s.mem Buf.msg.base (cipherProcess s.cipher s.message).2
      cipher := (cipherProcess s.cipher s.message).1 } := rfl

theorem completeRc4Proc_cell (s : State) (x : Nat) : (completeRc4Proc s).cell x =
    if Buf.msg.base ≤ x ∧ x < Buf.msg.base + (cipherProcess s.cipher s.message).2.length then
      (cipherProcess s.cipher s.message).2[x - Buf.msg.base]?
    else s.cell x := by
  unfold State.cell; rw [completeRc4Proc_eq, Memory.read_writeBytes]

theorem completePad_eq (sel : PasswordSel) (s : State) : completePad sel s =
    { s with
      mem := Memory.writeBytes s.mem Buf.padout.base (padPassword (s.password sel)) } := rfl

theorem completePad_cell (sel : PasswordSel) (s : State) (x : Nat) : (completePad sel s).cell x =
    if Buf.padout.base ≤ x ∧ x < Buf.padout.base + (padPassword (s.password sel)).length then
      (padPassword (s.password sel))[x - Buf.padout.base]?
    else s.cell x := by
  unfold State.cell; rw [completePad_eq, Memory.read_writeBytes]

theorem completeDeriveOwner_eq (s : State) : completeDeriveOwner s =
    { s with
      mem := Memory.writeBytes s.mem Buf.oval.base s.newOwnerValue
      digest := freeDigest s.draws
      cipher := freeCipher s.draws
      cvalid := false } := by
  rw [State.mk.injEq]; simp [completeDeriveOwner]

theorem completeDeriveOwner_cell (s : State) (x : Nat) : (completeDeriveOwner s).cell x =
    if Buf.oval.base ≤ x ∧ x < Buf.oval.base + s.newOwnerValue.length then
      s.newOwnerValue[x - Buf.oval.base]?
    else s.cell x := by
  unfold State.cell; rw [completeDeriveOwner_eq, Memory.read_writeBytes]

theorem completeDeriveFkey_eq (s : State) : completeDeriveFkey s =
    { s with
      mem := Memory.writeBytes s.mem Buf.fkey.base s.newFileKey
      digest := freeDigest s.draws
      fklen := 16 } := rfl

theorem completeDeriveFkey_cell (s : State) (x : Nat) : (completeDeriveFkey s).cell x =
    if Buf.fkey.base ≤ x ∧ x < Buf.fkey.base + s.newFileKey.length then
      s.newFileKey[x - Buf.fkey.base]?
    else s.cell x := by
  unfold State.cell; rw [completeDeriveFkey_eq, Memory.read_writeBytes]

theorem completeDeriveUser_eq (s : State) : completeDeriveUser s =
    { s with
      mem := Memory.writeBytes s.mem Buf.uval.base s.newUserValue
      digest := freeDigest s.draws
      cipher := freeCipher s.draws
      cvalid := false } := by
  rw [State.mk.injEq]; simp [completeDeriveUser]

theorem completeDeriveUser_cell (s : State) (x : Nat) : (completeDeriveUser s).cell x =
    if Buf.uval.base ≤ x ∧ x < Buf.uval.base + s.newUserValue.length then
      s.newUserValue[x - Buf.uval.base]?
    else s.cell x := by
  unfold State.cell; rw [completeDeriveUser_eq, Memory.read_writeBytes]

theorem completeObjkey_eq (s : State) : completeObjkey s =
    { s with
      mem := Memory.writeBytes s.mem Buf.okey.base (s.newObjectKey ++ zeros (16 - s.newObjectKey.length))
      oklen := BitVec.ofNat 32 s.newObjectKey.length
      digest := freeDigest s.draws } := rfl

theorem completeObjkey_cell (s : State) (x : Nat) : (completeObjkey s).cell x =
    if Buf.okey.base ≤ x ∧ x < Buf.okey.base + (s.newObjectKey ++ zeros (16 - s.newObjectKey.length)).length then
      (s.newObjectKey ++ zeros (16 - s.newObjectKey.length))[x - Buf.okey.base]?
    else s.cell x := by
  unfold State.cell; rw [completeObjkey_eq, Memory.read_writeBytes]

theorem completeEncObj_eq (s : State) : completeEncObj s =
    { completeObjkey s with
      mem := Memory.writeBytes (completeObjkey s).mem Buf.msg.base
        s.encryptedMessage
      cipher := s.payloadCipher
      cvalid := true } := by
  rfl

theorem completeEncObj_cell (s : State) (x : Nat) : (completeEncObj s).cell x =
    if Buf.msg.base ≤ x ∧ x < Buf.msg.base + s.mlen.toNat then
      s.encryptedMessage[x - Buf.msg.base]?
    else (completeObjkey s).cell x := by
  unfold State.cell; rw [completeEncObj_eq, Memory.read_writeBytes]; simp

/-- What `finish` leaves of memory. -/
@[simp] theorem State.cell_finish (s : State) (x : Nat) : s.finish.cell x = s.cell x := rfl

/-! ### What the completions write, for every command at once (R61) -/

/-- The buffer bytes a completion writes, in order: the buffer, and the bytes from its byte 0 on. -/
def completionWrites (s : State) : Instr → List (Buf × List Byte)
  | .nop => []
  | .digest => [(.dout, s.resultBytes .dout s.messageWritten (md5 s.message))]
  | .rc4Init => []
  | .rc4Proc => [(.msg, (cipherProcess s.cipher s.message).2)]
  | .pad sel => [(.padout, padPassword (s.password sel))]
  | .deriveOwner => [(.oval, s.newOwnerValue)]
  | .deriveFkey => [(.fkey, s.newFileKey)]
  | .deriveUser => [(.uval, s.newUserValue)]
  | .objkey => [(.okey, s.newObjectKey ++ zeros (16 - s.newObjectKey.length))]
  | .encObj => [(.okey, s.newObjectKey ++ zeros (16 - s.newObjectKey.length)),
      (.msg, s.encryptedMessage)]

theorem completion_mem (i : Instr) (s : State) : (completion i s).mem =
    (completionWrites s i).foldl (fun m w => Memory.writeBytes m w.1.base w.2) s.mem := by
  cases i <;> simp only [completion, completeNop_eq, completeDigest_eq, completeRc4Init_eq, completeRc4Proc_eq, completePad_eq,
    completeDeriveOwner_eq, completeDeriveFkey_eq, completeDeriveUser_eq, completeObjkey_eq, completeEncObj_eq, completionWrites,
    List.foldl_cons, List.foldl_nil]

/-- The cipher state a completion leaves. -/
def completionCipher (s : State) : Instr → CipherState
  | .nop | .digest | .pad _ | .deriveFkey | .objkey => s.cipher
  | .rc4Init => if s.cipherKeyWritten then keySchedule s.cipherKey else unknownKeyCipher s.draws 0
  | .rc4Proc => (cipherProcess s.cipher s.message).1
  | .deriveOwner | .deriveUser => freeCipher s.draws
  | .encObj => s.payloadCipher

theorem completion_cipher (i : Instr) (s : State) : (completion i s).cipher = completionCipher s i := by
  cases i <;> simp only [completion, completeNop_eq, completeDigest_eq, completeRc4Init_eq, completeRc4Proc_eq, completePad_eq,
    completeDeriveOwner_eq, completeDeriveFkey_eq, completeDeriveUser_eq, completeObjkey_eq, completeEncObj_eq, completionCipher]

/-- `CVALID` after a completion. -/
def completionCvalid (s : State) : Instr → Bool
  | .nop | .digest | .rc4Proc | .pad _ | .deriveFkey | .objkey => s.cvalid
  | .rc4Init | .encObj => true
  | .deriveOwner | .deriveUser => false

theorem completion_cvalid (i : Instr) (s : State) : (completion i s).cvalid = completionCvalid s i := by
  cases i <;> simp only [completion, completeNop_eq, completeDigest_eq, completeRc4Init_eq, completeRc4Proc_eq, completePad_eq,
    completeDeriveOwner_eq, completeDeriveFkey_eq, completeDeriveUser_eq, completeObjkey_eq, completeEncObj_eq, completionCvalid]

/-- `OKLEN` after a completion. -/
def completionOklen (s : State) : Instr → Word
  | .objkey | .encObj => BitVec.ofNat 32 (min (s.fklen.toNat + 5) 16)
  | .nop | .digest | .rc4Init | .rc4Proc | .pad _ | .deriveOwner | .deriveFkey | .deriveUser => s.oklen

theorem completion_oklen (i : Instr) (s : State) : (completion i s).oklen = completionOklen s i := by
  cases i <;> simp only [completion, completeNop_eq, completeDigest_eq, completeRc4Init_eq, completeRc4Proc_eq, completePad_eq,
    completeDeriveOwner_eq, completeDeriveFkey_eq, completeDeriveUser_eq, completeObjkey_eq, completeEncObj_eq, completionOklen,
    State.length_newObjectKey]

/-- `FKLEN` after a completion. -/
theorem completion_fklen (i : Instr) (s : State) : (completion i s).fklen = if i = .deriveFkey then 16 else s.fklen := by
  cases i <;> simp only [completion, completeNop_eq, completeDigest_eq, completeRc4Init_eq, completeRc4Proc_eq, completePad_eq,
    completeDeriveOwner_eq, completeDeriveFkey_eq, completeDeriveUser_eq, completeObjkey_eq, completeEncObj_eq, reduceCtorEq,
    if_true, if_false]

/-- A command that passed its checks writes inside its buffers (R84, R285). -/
theorem completionWrites_fit {s : State} {i : Instr} (hc : s.submissionError i = none) {w : Buf × List Byte}
    (hw : w ∈ completionWrites s i) : w.2.length ≤ w.1.size s.params := by
  have hm : s.messageLengthError = none → s.mlen.toNat ≤ s.params.msgSize := by
    unfold State.messageLengthError
    split
    · intro h; cases h
    · intro _; omega
  cases i <;> simp only [completionWrites, List.mem_cons, List.not_mem_nil, or_false] at hw
  case rc4Proc =>
    subst hw
    simp only [State.submissionError, Option.or_eq_none_iff] at hc
    simpa [Buf.size] using hm hc.1
  case encObj =>
    simp only [State.submissionError, Option.or_eq_none_iff] at hc
    rcases hw with rfl | rfl
    · simp [Buf.size]
    · simpa [Buf.size] using hm hc.1
  all_goals (subst hw; simp [Buf.size])
end Sys2Proof.Machine
end

