-- ==== Sys2Proof/Laws/Port.lean ====
section
/-! SUPPORT. The host port and the step, said once: every way a read, a write, the core's turn and a step can go. -/

namespace Sys2Proof.Machine

/-- Everything a read can do (R85). -/
theorem hostRead_cases (addr : PortAddr) (s : State) :
    (locate s.params addr = none ∧ hostRead addr s = (s.raise .addr).answer 0) ∨
    (∃ loc, locate s.params addr = some loc ∧ (loc.live = true ∨ s.busy = false) ∧
      hostRead addr s = s.answer (s.wordAt loc)) ∨
    (∃ loc, locate s.params addr = some loc ∧ loc.live = false ∧ s.busy = true ∧
      hostRead addr s = (s.answer (Config.busyWord s.draws)).nextDraw) := by
  unfold hostRead
  cases h : locate s.params addr with
  | none => exact .inl ⟨rfl, rfl⟩
  | some loc =>
    right
    dsimp only
    by_cases hl : loc.live = true
    · exact .inl ⟨loc, rfl, .inl hl, by rw [if_pos hl]⟩
    · by_cases hb : s.busy = true
      · exact .inr ⟨loc, rfl, by simpa using hl, hb, by rw [if_neg hl, if_pos hb]⟩
      · exact .inl ⟨loc, rfl, .inr (by simpa using hb), by rw [if_neg hl, if_neg hb]⟩

/-- Everything a write can do (R86). -/
theorem hostWrite_cases (addr : PortAddr) (v : Word) (s : State) :
    (locate s.params addr = none ∧ hostWrite addr v s = .next (s.raise .addr)) ∨
    (locate s.params addr = some (.reg .status) ∧ hostWrite addr v s = .next (s.writeStatus v)) ∨
    (locate s.params addr = some (.reg .ctrl) ∧ hostWrite addr v s = .next (s.writeCtrl v)) ∨
    (∃ loc, locate s.params addr = some loc ∧ loc.readOnly = true ∧ hostWrite addr v s = .next s) ∨
    (∃ loc, locate s.params addr = some loc ∧ loc.readOnly = false ∧ loc ≠ .reg .status ∧ loc ≠ .reg .ctrl ∧
      s.busy = true ∧ hostWrite addr v s = .next (s.raise .busy)) ∨
    (∃ loc, locate s.params addr = some loc ∧ loc.readOnly = false ∧ loc ≠ .reg .status ∧ loc ≠ .reg .ctrl ∧
      s.busy = false ∧ hostWrite addr v s = writeIdle loc v s) := by
  unfold hostWrite
  cases h : locate s.params addr with
  | none => exact .inl ⟨rfl, rfl⟩
  | some loc =>
    right
    dsimp only
    by_cases h1 : loc = .reg .status
    · subst h1; exact .inl ⟨rfl, by simp⟩
    by_cases h2 : loc = .reg .ctrl
    · subst h2; exact .inr (.inl ⟨rfl, by simp⟩)
    right; right
    rw [if_neg h1, if_neg h2]
    by_cases h3 : loc.readOnly = true
    · exact .inl ⟨loc, rfl, h3, by rw [if_pos h3]⟩
    right
    have h3' : loc.readOnly = false := by simpa using h3
    rw [if_neg h3]
    by_cases hb : s.busy = true
    · exact .inl ⟨loc, rfl, h3', h1, h2, hb, by rw [if_pos hb]⟩
    · exact .inr ⟨loc, rfl, h3', h1, h2, by simpa using hb, by rw [if_neg hb]⟩

/-- Everything an idle write that is neither refused nor ignored can do (R86). -/
theorem writeIdle_cases (loc : Location) (v : Word) (s : State) :
    (loc = .reg .cmd ∧ writeIdle loc v s = submit v s) ∨
    (∃ r, r ≠ .cmd ∧ loc = .reg r ∧ writeIdle loc v s = .next (s.writeOperand r v)) ∨
    (∃ b k, loc = .buf b k ∧ writeIdle loc v s = .next (s.store (b.base + k) (bytesLe v.toNat 4))) := by
  cases loc with
  | reg r => cases r <;> first | exact .inl ⟨rfl, rfl⟩ | exact .inr (.inl ⟨_, by decide, rfl, rfl⟩)
  | buf b k => exact .inr (.inr ⟨b, k, rfl, rfl⟩)

/-- Everything a submission can do (R260). -/
theorem submit_cases (w : Word) (s : State) :
    (∃ e, decode w = .error e ∧ submit w s = .next (s.raise .opcode)) ∨
    (∃ i, decode w = .ok i ∧ submit w s = exec i s) := by
  unfold submit
  cases h : decode w with
  | error e => exact .inl ⟨e, rfl, rfl⟩
  | ok i => exact .inr ⟨i, rfl, rfl⟩

/-- Everything the core's turn can do (R263, R299). -/
theorem coreTurn_cases (s : State) :
    (s.busy = false ∧ coreTurn s = .next s) ∨
    (∃ i, s.busy = true ∧ decode s.pending = .ok i ∧ coreTurn s = .next (completion i s).finish) ∨
    (∃ e, s.busy = true ∧ decode s.pending = .error e ∧ coreTurn s = .fault .pendingNotACommand) := by
  unfold coreTurn
  cases hb : s.busy with
  | false => exact .inl ⟨rfl, rfl⟩
  | true =>
    right
    cases h : decode s.pending with
    | error e => exact .inr ⟨e, rfl, rfl, rfl⟩
    | ok i => exact .inl ⟨i, rfl, rfl, by
        rw [if_pos rfl]; dsimp only; rw [exec_eq_runCommand, runCommand_busy hb]⟩

/-- The step, by its next event. -/
theorem step_nil {s : State} (h : s.events = []) : step s = coreTurn (s.turn []) := by unfold step; rw [h]

theorem step_core {s : State} {rest : List Event} (h : s.events = .core :: rest) : step s = coreTurn (s.turn rest) := by
  unfold step; rw [h]

theorem step_read {s : State} {a : PortAddr} {rest : List Event} (h : s.events = .read a :: rest) :
    step s = .next (hostRead a (s.turn rest)) := by unfold step; rw [h]

theorem step_write {s : State} {a : PortAddr} {v : Word} {rest : List Event} (h : s.events = .write a v :: rest) :
    step s = hostWrite a v (s.turn rest).nextDraw := by unfold step; rw [h]

theorem step_reset {s : State} {rest : List Event} (h : s.events = .reset :: rest) :
    step s = .next (s.turn rest).resetEvent := by unfold step; rw [h]

/-- `CMD` stands at address 0x0000 for every choice of the parameters (R84). -/
@[simp] theorem locate_cmd (p : Params) : locate p 0#16 = some (.reg .cmd) := rfl

@[simp] theorem locate_status (p : Params) : locate p 4#16 = some (.reg .status) := rfl

@[simp] theorem locate_ctrl (p : Params) : locate p 8#16 = some (.reg .ctrl) := rfl

/-- An idle write to `CMD` is a submission (R260). -/
theorem hostWrite_cmd_idle {s : State} (h : s.busy = false) (w : Word) : hostWrite 0#16 w s = submit w s := by
  simp [hostWrite, h, Location.readOnly, Reg.readOnly, writeIdle]

/-- A mapped word of a buffer starts at that buffer's byte `offset`, and lies in its window. -/
theorem locate_buf {p : Params} {addr : PortAddr} {b : Buf} {k : Nat} (h : locate p addr = some (.buf b k)) :
    addr.toNat % 4 = 0 ∧ addr.toNat = b.base + k ∧ k < b.size p := by
  unfold locate at h
  dsimp only at h
  split at h
  · cases h
  · rename_i h4
    split at h
    · cases h
    · simp only [Option.map_eq_some_iff, Location.buf.injEq] at h
      obtain ⟨b', hb, rfl, hk⟩ := h
      have := List.find?_some hb
      simp only [Buf.holds, decide_eq_true_eq] at this
      refine ⟨by omega, by omega, by omega⟩

/-- A mapped register stands at its address. -/
theorem locate_reg_address {p : Params} {addr : PortAddr} {r : Reg} (h : locate p addr = some (.reg r)) :
    addr.toNat = r.address := by
  unfold locate at h
  dsimp only at h
  split at h
  · cases h
  · split at h
    · rename_i hr
      cases h
      exact (by simpa using List.find?_some hr : r.address = addr.toNat).symm
    · simp at h

/-- `CMD` stands at 0x0000 only. -/
theorem locate_cmd_only {p : Params} {addr : PortAddr} (h : locate p addr = some (.reg .cmd)) : addr = 0x0000 :=
  BitVec.eq_of_toNat_eq (locate_reg_address h)

/-- `STATUS` stands at 0x0004 only. -/
theorem locate_status_only {p : Params} {addr : PortAddr} (h : locate p addr = some (.reg .status)) : addr = 0x0004 :=
  BitVec.eq_of_toNat_eq (locate_reg_address h)

/-- Everything a write can leave behind (R86, R260). -/
theorem hostWrite_next {a : PortAddr} {v : Word} {s t : State} (h : hostWrite a v s = .next t) :
    (∃ e, t = s.raise e) ∨ (a = 0x0004 ∧ t = s.writeStatus v) ∨ t = s.writeCtrl v ∨ t = s ∨
    (∃ r, s.busy = false ∧ t = s.writeOperand r v) ∨
    (∃ b k, s.busy = false ∧ locate s.params a = some (.buf b k) ∧ b.readOnly = false ∧
      t = s.store (b.base + k) (bytesLe v.toNat 4)) ∨
    (∃ i, a = 0x0000 ∧ s.busy = false ∧ decode v = .ok i ∧ s.submissionError i = none ∧ t = s.accept (encode i)) := by
  rcases hostWrite_cases a v s with ⟨_, e⟩ | ⟨hl, e⟩ | ⟨_, e⟩ | ⟨_, _, _, e⟩ | ⟨_, _, _, _, _, _, e⟩ |
    ⟨loc, hl, hr, h1, h2, hb, e⟩ <;> rw [e] at h
  · cases h; exact .inl ⟨_, rfl⟩
  · cases h; exact .inr (.inl ⟨locate_status_only hl, rfl⟩)
  · cases h; exact .inr (.inr (.inl rfl))
  · cases h; exact .inr (.inr (.inr (.inl rfl)))
  · cases h; exact .inl ⟨_, rfl⟩
  · rcases writeIdle_cases loc v s with ⟨rfl, e⟩ | ⟨r, _, rfl, e⟩ | ⟨b, k, rfl, e⟩ <;> rw [e] at h
    · rcases submit_cases v s with ⟨_, _, e⟩ | ⟨i, hd, e⟩ <;> rw [e] at h
      · cases h; exact .inl ⟨_, rfl⟩
      · rcases exec_cases i s with ⟨hb', _⟩ | ⟨_, _, _, e⟩ | ⟨_, hc, e⟩
        · rw [hb] at hb'; cases hb'
        · rw [e] at h; cases h; exact .inl ⟨_, rfl⟩
        · rw [e] at h; cases h
          exact .inr (.inr (.inr (.inr (.inr (.inr ⟨i, locate_cmd_only hl, hb, hd, hc, rfl⟩)))))
    · cases h; exact .inr (.inr (.inr (.inr (.inl ⟨r, hb, rfl⟩))))
    · cases h; exact .inr (.inr (.inr (.inr (.inr (.inl ⟨b, k, hb, hl, hr, rfl⟩)))))

/-- The next event is the core's turn, and `rest` are the events after it. -/
def State.coreNext (s : State) (rest : List Event) : Prop :=
  s.events = .core :: rest ∨ (s.events = [] ∧ rest = [])

theorem step_coreNext {s : State} {rest : List Event} (h : s.coreNext rest) : step s = coreTurn (s.turn rest) := by
  rcases h with h | ⟨h, rfl⟩
  · exact step_core h
  · exact step_nil h

/-- Everything a step that goes on can leave behind. -/
theorem step_next {s t : State} (h : step s = .next t) :
    (∃ rest, s.coreNext rest ∧ s.busy = false ∧ t = s.turn rest) ∨
    (∃ i rest, s.coreNext rest ∧ s.busy = true ∧ decode s.pending = .ok i ∧
      t = (completion i (s.turn rest)).finish) ∨
    (∃ a rest, s.events = .read a :: rest ∧ t = hostRead a (s.turn rest)) ∨
    (∃ rest, s.events = .reset :: rest ∧ t = (s.turn rest).resetEvent) ∨
    (∃ a v rest, s.events = .write a v :: rest ∧ hostWrite a v (s.turn rest).nextDraw = .next t) := by
  have core : ∀ rest, s.coreNext rest → (∃ rest, s.coreNext rest ∧ s.busy = false ∧ t = s.turn rest) ∨
      (∃ i rest, s.coreNext rest ∧ s.busy = true ∧ decode s.pending = .ok i ∧
        t = (completion i (s.turn rest)).finish) := by
    intro rest hc
    rw [step_coreNext hc] at h
    rcases coreTurn_cases (s.turn rest) with ⟨hb, e⟩ | ⟨i, hb, hd, e⟩ | ⟨_, _, _, e⟩ <;> rw [e] at h
    · cases h; exact .inl ⟨rest, hc, hb, rfl⟩
    · cases h; exact .inr ⟨i, rest, hc, hb, hd, rfl⟩
    · cases h
  rcases he : s.events with _ | ⟨e, rest⟩
  · rcases core [] (.inr ⟨he, rfl⟩) with h | h
    · exact .inl h
    · exact .inr (.inl h)
  · cases e with
    | read a => rw [step_read he] at h; cases h; exact .inr (.inr (.inl ⟨a, rest, rfl, rfl⟩))
    | write a v => rw [step_write he] at h; exact .inr (.inr (.inr (.inr ⟨a, v, rest, rfl, h⟩)))
    | reset => rw [step_reset he] at h; cases h; exact .inr (.inr (.inr (.inl ⟨rest, rfl, rfl⟩)))
    | core =>
      rcases core rest (.inl he) with h | h
      · exact .inl h
      · exact .inr (.inl h)
/-- Two addresses of one location are equal. -/
theorem locate_injective {p : Params} {a a' : PortAddr} {l : Location} (h : locate p a = some l)
    (h' : locate p a' = some l) : a = a' := by
  apply BitVec.eq_of_toNat_eq
  cases l with
  | reg r => rw [locate_reg_address h, locate_reg_address h']
  | buf b k => rw [(locate_buf h).2.1, (locate_buf h').2.1]

theorem find_register_none (a : Nat) :
    Reg.all.find? (fun r => r.address == a) = none ↔ ∀ r : Reg, r.address ≠ a := by
  rw [List.find?_eq_none]
  constructor
  · intro h r
    have := h r (by cases r <;> decide)
    simpa using this
  · intro h r _
    simpa using h r

/-- An address has no location when it is misaligned, or holds no register and lies in no buffer. -/
theorem locate_none_iff (p : Params) (a : PortAddr) : locate p a = none ↔ a.toNat % 4 ≠ 0 ∨
    ((∀ r : Reg, r.address ≠ a.toNat) ∧ ∀ b : Buf, ¬ (b.base ≤ a.toNat ∧ a.toNat < b.base + b.size p)) := by
  unfold locate
  dsimp only
  by_cases h4 : a.toNat % 4 ≠ 0
  · simp [h4]
  · rw [if_neg h4]
    cases hr : Reg.all.find? (fun r => r.address == a.toNat) with
    | some r =>
      have := List.find?_some hr
      simp only [beq_iff_eq] at this
      simp [h4]
      intro h
      exact absurd this (h r)
    | none =>
      rw [find_register_none] at hr
      simp only [Option.map_eq_none_iff, List.find?_eq_none, Buf.holds, decide_eq_true_eq]
      constructor
      · intro h
        exact .inr ⟨hr, fun b => h b (by cases b <;> decide)⟩
      · rintro (h | h)
        · exact absurd h h4
        · intro b _
          exact h.2 b

/-- No two buffers overlap (R84). -/
theorem buffers_disjoint {p : Params} (hp : p.wf) {x : Nat} {b c : Buf} (h1 : Buf.holds p x b = true)
    (h2 : Buf.holds p x c = true) : b = c := by
  obtain ⟨⟨_, _, _⟩, _, _, _⟩ := hp
  simp only [Buf.holds, decide_eq_true_eq] at h1 h2
  cases b <;> cases c <;> first | rfl | (exfalso; simp only [Buf.base, Buf.size] at h1 h2; omega)

/-- The four bytes of a mapped buffer word are buffer bytes (R83, R84). -/
theorem bufferAddress_word {p : Params} (hp : p.wf) {a : PortAddr} {b : Buf} {k : Nat}
    (h : locate p a = some (.buf b k)) {n : Nat} (hn : n < 4) : bufferAddress p (b.base + k + n) := by
  obtain ⟨h1, h2, h3⟩ := locate_buf h
  obtain ⟨⟨_, _, _⟩, _, _, _⟩ := hp
  refine ⟨b, by omega, ?_⟩
  cases b <;> simp only [Buf.base, Buf.size] at * <;> omega

/-- A write never stops (R86). -/
theorem hostWrite_goes_on (a : PortAddr) (v : Word) (s : State) : ∃ t, hostWrite a v s = .next t := by
  rcases hostWrite_cases a v s with ⟨_, e⟩ | ⟨_, e⟩ | ⟨_, e⟩ | ⟨_, _, _, e⟩ | ⟨_, _, _, _, _, _, e⟩ |
    ⟨loc, _, _, _, _, _, e⟩ <;> rw [e]
  · exact ⟨_, rfl⟩
  · exact ⟨_, rfl⟩
  · exact ⟨_, rfl⟩
  · exact ⟨_, rfl⟩
  · exact ⟨_, rfl⟩
  · rcases writeIdle_cases loc v s with ⟨_, e⟩ | ⟨_, _, _, e⟩ | ⟨_, _, _, e⟩ <;> rw [e]
    · rcases submit_cases v s with ⟨_, _, e⟩ | ⟨i, _, e⟩ <;> rw [e]
      · exact ⟨_, rfl⟩
      · rcases exec_cases i s with ⟨_, e⟩ | ⟨_, _, _, e⟩ | ⟨_, _, e⟩ <;> exact ⟨_, e⟩
    · exact ⟨_, rfl⟩
    · exact ⟨_, rfl⟩

/-- An idle write of a word of a host-writable buffer (R86). -/
theorem step_buffer_write {s : State} {rest : List Event} {a : PortAddr} {v : Word} {b : Buf} {k : Nat}
    (h : s.events = .write a v :: rest) (hb : s.busy = false) (hl : locate s.params a = some (.buf b k))
    (hr : b.readOnly = false) :
    step s = .next (((s.turn rest).nextDraw).store (b.base + k) (bytesLe v.toNat 4)) := by
  rw [step_write h]
  unfold hostWrite
  rw [State.nextDraw_params, State.turn_params, hl]
  dsimp only
  rw [if_neg (by simp), if_neg (by simp), if_neg (by simp [Location.readOnly, hr]), if_neg (by simp [hb])]
  rfl

end Sys2Proof.Machine
end

