-- ==== Sys2Proof/Laws/PerInstr.lean ====
section
/-! SUPPORT. What holds of every command, one lemma per constructor. Family `RoundTrip`: the command is well formed, its
word decodes to it, its word is well formed (30_encoding.md R110, R111, R118). -/

namespace Sys2Proof.Laws.RoundTrip

/-- What is said of each command. -/
def Statement (i : Instr) : Prop := i.wf = true ∧ decode (encode i) = .ok i ∧ commandWordWf (encode i)

theorem nop : Statement .nop := by unfold Statement; decide

theorem digest : Statement .digest := by unfold Statement; decide

theorem rc4Init : Statement .rc4Init := by unfold Statement; decide

theorem rc4Proc : Statement .rc4Proc := by unfold Statement; decide

theorem pad (sel : PasswordSel) : Statement (.pad sel) := by cases sel <;> (unfold Statement; decide)

theorem deriveOwner : Statement .deriveOwner := by unfold Statement; decide

theorem deriveFkey : Statement .deriveFkey := by unfold Statement; decide

theorem deriveUser : Statement .deriveUser := by unfold Statement; decide

theorem objkey : Statement .objkey := by unfold Statement; decide

theorem encObj : Statement .encObj := by unfold Statement; decide

end Sys2Proof.Laws.RoundTrip
end

