-- ==== Sys2Proof/Laws/Invariant.lean ====
section
/-! SUPPORT. The invariant of Safety.lean, one lemma per named operation: each keeps it. -/

namespace Sys2Proof.Machine

theorem decode_encode (i : Instr) : decode (encode i) = .ok i := by
  cases i <;> first | decide | (rename_i x; cases x <;> decide)

/-- The submission checks look at the registers, `CVALID` and the parameters only. -/
theorem submissionError_congr {s t : State} (hp : s.params = t.params) (h1 : s.mlen = t.mlen) (h2 : s.klen = t.klen)
    (h3 : s.fidlen = t.fidlen) (h4 : s.fklen = t.fklen) (h5 : s.cvalid = t.cvalid) (i : Instr) :
    s.submissionError i = t.submissionError i := by
  cases i <;> simp only [State.submissionError, State.messageLengthError, State.fileIdLengthError,
    State.cipherKeyLengthError, State.fileKeyLengthError, State.noCipherError, hp, h1, h2, h3, h4, h5]

theorem inv_turn {s : State} (h : s.Inv) (rest : List Event) : (s.turn rest).Inv where
  paramsLegal := h.paramsLegal
  memCanonical := h.memCanonical
  memMapped := h.memMapped
  codeLegal := h.codeLegal
  codeOfFlag := h.codeOfFlag
  cmdLegal := h.cmdLegal
  okeyLength := h.okeyLength
  busyPending := h.busyPending
  busyNotDone := h.busyNotDone
  busyChecked hb i hi := (submissionError_congr rfl rfl rfl rfl rfl rfl i).trans (h.busyChecked hb i hi)
  cipherKeyed := h.cipherKeyed

theorem inv_nextDraw {s : State} (h : s.Inv) : s.nextDraw.Inv where
  paramsLegal := h.paramsLegal
  memCanonical := h.memCanonical
  memMapped := h.memMapped
  codeLegal := h.codeLegal
  codeOfFlag := h.codeOfFlag
  cmdLegal := h.cmdLegal
  okeyLength := h.okeyLength
  busyPending := h.busyPending
  busyNotDone := h.busyNotDone
  busyChecked hb i hi := (submissionError_congr rfl rfl rfl rfl rfl rfl i).trans (h.busyChecked hb i hi)
  cipherKeyed := h.cipherKeyed

theorem inv_answer {s : State} (h : s.Inv) (w : Word) : (s.answer w).Inv where
  paramsLegal := h.paramsLegal
  memCanonical := h.memCanonical
  memMapped := h.memMapped
  codeLegal := h.codeLegal
  codeOfFlag := h.codeOfFlag
  cmdLegal := h.cmdLegal
  okeyLength := h.okeyLength
  busyPending := h.busyPending
  busyNotDone := h.busyNotDone
  busyChecked hb i hi := (submissionError_congr rfl rfl rfl rfl rfl rfl i).trans (h.busyChecked hb i hi)
  cipherKeyed := h.cipherKeyed

theorem inv_writeCtrl {s : State} (h : s.Inv) (v : Word) : (s.writeCtrl v).Inv where
  paramsLegal := h.paramsLegal
  memCanonical := h.memCanonical
  memMapped := h.memMapped
  codeLegal := h.codeLegal
  codeOfFlag := h.codeOfFlag
  cmdLegal := h.cmdLegal
  okeyLength := h.okeyLength
  busyPending := h.busyPending
  busyNotDone := h.busyNotDone
  busyChecked hb i hi := (submissionError_congr rfl rfl rfl rfl rfl rfl i).trans (h.busyChecked hb i hi)
  cipherKeyed := h.cipherKeyed

theorem inv_clearDone {s : State} (h : s.Inv) : s.clearDone.Inv where
  paramsLegal := h.paramsLegal
  memCanonical := h.memCanonical
  memMapped := h.memMapped
  codeLegal := h.codeLegal
  codeOfFlag := h.codeOfFlag
  cmdLegal := h.cmdLegal
  okeyLength := h.okeyLength
  busyPending := h.busyPending
  busyNotDone _ := rfl
  busyChecked hb i hi := (submissionError_congr rfl rfl rfl rfl rfl rfl i).trans (h.busyChecked hb i hi)
  cipherKeyed := h.cipherKeyed

theorem inv_clearError {s : State} (h : s.Inv) : s.clearError.Inv where
  paramsLegal := h.paramsLegal
  memCanonical := h.memCanonical
  memMapped := h.memMapped
  codeLegal := Nat.zero_le _
  codeOfFlag := ⟨fun _ => rfl, fun _ => rfl⟩
  cmdLegal := h.cmdLegal
  okeyLength := h.okeyLength
  busyPending := h.busyPending
  busyNotDone := h.busyNotDone
  busyChecked hb i hi := (submissionError_congr rfl rfl rfl rfl rfl rfl i).trans (h.busyChecked hb i hi)
  cipherKeyed := h.cipherKeyed

theorem inv_writeStatus {s : State} (h : s.Inv) (v : Word) : (s.writeStatus v).Inv := by
  unfold State.writeStatus
  dsimp only
  split <;> split
  · exact inv_clearError (inv_clearDone h)
  · exact inv_clearError h
  · exact inv_clearDone h
  · exact h

theorem inv_raise {s : State} (h : s.Inv) (e : Error) : (s.raise e).Inv := by
  unfold State.raise
  split
  · exact h
  · exact
      { paramsLegal := h.paramsLegal
        memCanonical := h.memCanonical
        memMapped := h.memMapped
        codeLegal := show e.code.toNat ≤ 6 by cases e <;> decide
        codeOfFlag := by cases e <;> simp [Error.code]
        cmdLegal := h.cmdLegal
        okeyLength := h.okeyLength
        busyPending := h.busyPending
        busyNotDone := h.busyNotDone
        busyChecked := fun hb i hi =>
          (submissionError_congr rfl rfl rfl rfl rfl rfl i).trans (h.busyChecked hb i hi)
        cipherKeyed := h.cipherKeyed }

theorem inv_resetEvent {s : State} (h : s.Inv) : s.resetEvent.Inv := by
  refine ⟨h.paramsLegal, Memory.wf_nil, fun c hc => (by cases hc), Nat.zero_le _, ⟨fun _ => rfl, fun _ => rfl⟩,
    ⟨.nop, show decode 0 = .ok .nop by decide⟩, .inl rfl, ?_, ?_, ?_, ?_⟩
  · rw [State.resetEvent_busy]; intro hb; cases hb
  · rw [State.resetEvent_busy]; intro hb; cases hb
  · rw [State.resetEvent_busy]; intro hb; cases hb
  · rw [State.resetEvent_cvalid]; intro hb; cases hb

theorem inv_writeOperand {s : State} (h : s.Inv) (hb : s.busy = false) (r : Reg) (v : Word) :
    (s.writeOperand r v).Inv := by
  have hb' : s.busy ≠ true := by simp [hb]
  obtain ⟨a, b, c, d, e, f, g, i, j, k, l⟩ := h
  cases r <;> exact ⟨a, b, c, d, e, f, g, i, j, fun h => absurd h hb', l⟩

theorem inv_store {s : State} (h : s.Inv) (hb : s.busy = false) (x : Nat) (bs : List Byte)
    (hm : ∀ k, k < bs.length → bufferAddress s.params (x + k)) : (s.store x bs).Inv where
  paramsLegal := h.paramsLegal
  memCanonical := Memory.wf_writeBytes h.memCanonical _ _
  memMapped c hc := by
    rcases Memory.address_of_mem_writeBytes hc with ⟨h1, h2⟩ | hc
    · have := hm (c.1 - x) (by omega)
      rwa [show x + (c.1 - x) = c.1 by omega] at this
    · exact h.memMapped c hc
  codeLegal := h.codeLegal
  codeOfFlag := h.codeOfFlag
  cmdLegal := h.cmdLegal
  okeyLength := h.okeyLength
  busyPending := h.busyPending
  busyNotDone := h.busyNotDone
  busyChecked h' := absurd (show s.busy = true from h') (by simp [hb])
  cipherKeyed := h.cipherKeyed

theorem inv_accept {s : State} (h : s.Inv) {i : Instr} (hc : s.submissionError i = none) : (s.accept (encode i)).Inv where
  paramsLegal := h.paramsLegal
  memCanonical := h.memCanonical
  memMapped := h.memMapped
  codeLegal := h.codeLegal
  codeOfFlag := h.codeOfFlag
  cmdLegal := ⟨i, decode_encode i⟩
  okeyLength := h.okeyLength
  busyPending _ := rfl
  busyNotDone _ := rfl
  busyChecked _ i' hi := by
    have e : decode (encode i) = .ok i' := hi
    rw [decode_encode] at e
    cases e
    exact (submissionError_congr rfl rfl rfl rfl rfl rfl i).trans hc
  cipherKeyed := h.cipherKeyed

/-! ### The completions -/

theorem completion_memMapped {s : State} {i : Instr} (hc : s.submissionError i = none) :
    ∀ c ∈ (completion i s).mem, bufferAddress s.params c.1 ∨ c ∈ s.mem := by
  rw [completion_mem]
  have gen : ∀ (l : List (Buf × List Byte)) (m : List Host.Cell), (∀ w ∈ l, w.2.length ≤ w.1.size s.params) →
      ∀ c ∈ l.foldl (fun m w => Memory.writeBytes m w.1.base w.2) m, bufferAddress s.params c.1 ∨ c ∈ m := by
    intro l
    induction l with
    | nil => intro m _ c h; exact .inr h
    | cons w l ih =>
      intro m hw c h
      rcases ih _ (fun w h => hw w (List.mem_cons_of_mem _ h)) c h with h | h
      · exact .inl h
      · rcases Memory.address_of_mem_writeBytes h with ⟨h1, h2⟩ | h
        · have := hw w (List.mem_cons_self ..)
          exact .inl ⟨w.1, h1, by omega⟩
        · exact .inr h
  exact gen _ _ fun w hw => completionWrites_fit hc hw

theorem completion_memCanonical {s : State} (i : Instr) (h : Memory.wf s.mem) : Memory.wf (completion i s).mem := by
  rw [completion_mem]
  generalize completionWrites s i = l
  generalize s.mem = m at h
  induction l generalizing m with
  | nil => exact h
  | cons w l ih => exact ih _ (Memory.wf_writeBytes h _ _)

theorem keySchedule_perm (key : List Byte) : isPermutation (keySchedule key).S := by
  unfold keySchedule
  dsimp only
  generalize hc : (identityTable, (0 : Byte)) = c
  have h : isPermutation c.1 := by rw [← hc]; exact identityTable_perm
  generalize List.range 256 = l
  clear hc
  induction l generalizing c with
  | nil => exact h
  | cons n l ih => exact ih _ (mixStep_perm n h)

theorem cipherProcess_perm {c : CipherState} (d : List Byte) (h : isPermutation c.S) :
    isPermutation (cipherProcess c d).1.S := by
  induction d generalizing c with
  | nil => exact h
  | cons x xs ih => exact ih (cipherStep_perm h)

theorem unknownKeyTable_perm (draw : Nat) : isPermutation (unknownKeyTable draw) := by
  unfold unknownKeyTable
  generalize hS : identityTable = S
  have h : isPermutation S := by rw [← hS]; exact identityTable_perm
  generalize List.range 256 = l
  clear hS
  induction l generalizing S with
  | nil => exact h
  | cons n l ih => exact ih _ ((swapEntries_perm _ _ _).trans h)

theorem unknownKeyCipher_S (draw n : Nat) : (unknownKeyCipher draw n).S = unknownKeyTable draw := by
  simp only [unknownKeyCipher]

theorem unknownKeyCipher_perm (draw n : Nat) : isPermutation (unknownKeyCipher draw n).S := by
  rw [unknownKeyCipher_S]; exact unknownKeyTable_perm draw

theorem unknownKeyCipher_i (draw n : Nat) : (unknownKeyCipher draw n).i = BitVec.ofNat 8 n := by
  simp only [unknownKeyCipher]

theorem unknownKeyCipher_j_zero (draw : Nat) : (unknownKeyCipher draw 0).j = 0 := by
  simp only [unknownKeyCipher, if_true]

theorem keySchedule_i (key : List Byte) : (keySchedule key).i = 0 := by simp only [keySchedule]

theorem payloadCipher_i (s : State) : s.payloadCipher.i = BitVec.ofNat 8 s.mlen.toNat := by
  unfold State.payloadCipher
  split
  · rw [cipherProcess_i, keySchedule_i, State.length_message]; exact BitVec.zero_add _
  · rw [unknownKeyCipher_i]

theorem payloadCipher_perm (s : State) : isPermutation s.payloadCipher.S := by
  unfold State.payloadCipher
  split
  · exact cipherProcess_perm _ (keySchedule_perm _)
  · exact unknownKeyCipher_perm s.draws s.mlen.toNat

theorem completion_cipherKeyed {s : State} (i : Instr) (h : s.cvalid = true → isPermutation s.cipher.S) :
    (completion i s).cvalid = true → isPermutation (completion i s).cipher.S := by
  rw [completion_cvalid, completion_cipher]
  intro hv
  cases i
  case rc4Init =>
    simp only [completionCipher]
    split
    · exact keySchedule_perm _
    · exact unknownKeyCipher_perm s.draws 0
  case rc4Proc => exact cipherProcess_perm _ (h hv)
  case encObj => exact payloadCipher_perm s
  case deriveOwner => cases hv
  case deriveUser => cases hv
  all_goals exact h hv

theorem completion_okeyLength {s : State} {i : Instr}
    (h : s.oklen.toNat = 0 ∨ (10 ≤ s.oklen.toNat ∧ s.oklen.toNat ≤ 16)) (hc : s.submissionError i = none) :
    (completion i s).oklen.toNat = 0 ∨
      (10 ≤ (completion i s).oklen.toNat ∧ (completion i s).oklen.toNat ≤ 16) := by
  rw [completion_oklen]
  have key : s.fileKeyLengthError = none → 10 ≤ (BitVec.ofNat 32 (min (s.fklen.toNat + 5) 16)).toNat ∧
      (BitVec.ofNat 32 (min (s.fklen.toNat + 5) 16)).toNat ≤ 16 := by
    unfold State.fileKeyLengthError
    split
    · intro h; cases h
    · intro _; simp; omega
  cases i with
  | objkey => exact .inr (key hc)
  | encObj =>
    simp only [State.submissionError, Option.or_eq_none_iff] at hc
    exact .inr (key hc.2)
  | _ => exact h

theorem inv_finish {s : State} (h : s.Inv) {i : Instr} (hc : s.submissionError i = none) :
    (completion i s).finish.Inv := by
  refine ⟨by simpa using h.paramsLegal, completion_memCanonical i h.memCanonical, fun c hm => ?_,
    by simpa using h.codeLegal, by simpa using h.codeOfFlag, by simpa using h.cmdLegal,
    completion_okeyLength h.okeyLength hc, fun hb => ?_, fun hb => ?_, fun hb => ?_,
    completion_cipherKeyed i h.cipherKeyed⟩
  · rw [State.finish_params, completion_params]
    exact (completion_memMapped hc c hm).elim id (h.memMapped c)
  all_goals cases hb

end Sys2Proof.Machine
end

