-- ==== Sys2Proof/Laws/Specified.lean ====
section
/-! SUPPORT. What is left when the unspecified parts are dropped (`State.specified` of Safety.lean): each named operation
depends on the rest alone. -/

namespace Sys2Proof.Machine

theorem specified_idem (s : State) : s.specified.specified = s.specified := by
  unfold State.specified
  dsimp only
  cases s.busy <;> cases s.cvalid <;> rfl

theorem specified_raise (s : State) (e : Error) : (s.raise e).specified = s.specified.raise e := by
  unfold State.raise State.specified
  dsimp only
  split <;> rfl

theorem specified_writeStatus (s : State) (v : Word) : (s.writeStatus v).specified = s.specified.writeStatus v := by
  unfold State.writeStatus
  dsimp only
  split <;> split <;> rfl

theorem specified_writeOperand (s : State) (r : Reg) (v : Word) :
    (s.writeOperand r v).specified = s.specified.writeOperand r v := by cases r <;> rfl

theorem specified_accept (s : State) (w : Word) : (s.accept w).specified = s.specified.accept w := rfl

theorem specified_turn (s : State) (rest : List Event) : (s.turn rest).specified = s.specified.turn rest := rfl

theorem specified_nextDraw (s : State) : s.nextDraw.specified = s.specified.nextDraw := rfl

theorem specified_cipher {s : State} (h : s.cvalid = true) : s.specified.cipher = s.cipher := by
  unfold State.specified
  dsimp only
  rw [if_pos h]

theorem completionWrites_specified {s : State} {i : Instr} (h : i = .rc4Proc → s.cvalid = true) :
    completionWrites s.specified i = completionWrites s i := by
  cases i <;> try rfl
  unfold completionWrites
  dsimp only
  rw [specified_cipher (h rfl)]
  rfl

theorem completionCipher_specified {s : State} {i : Instr} (h : i = .rc4Proc → s.cvalid = true)
    (hv : completionCvalid s i = true) : completionCipher s.specified i = completionCipher s i := by
  cases i
  case rc4Proc => unfold completionCipher; dsimp only; rw [specified_cipher (h rfl)]; rfl
  case rc4Init => rfl
  case encObj => rfl
  case deriveOwner => cases hv
  case deriveUser => cases hv
  all_goals exact specified_cipher hv

/-- A completion that may run depends on the specified parts alone. -/
theorem specified_finish {s : State} {i : Instr} (h : i = .rc4Proc → s.cvalid = true) :
    (completion i s).finish.specified = (completion i s.specified).finish.specified := by
  have e1 : completionCvalid s.specified i = completionCvalid s i := by cases i <;> rfl
  have e2 : completionOklen s.specified i = completionOklen s i := by cases i <;> rfl
  have hc := @completionCipher_specified s i h
  have hcv1 : (completion i s).finish.cvalid = completionCvalid s i := by simp [completion_cvalid]
  have hcv2 : (completion i s.specified).finish.cvalid = completionCvalid s i := by simp [completion_cvalid, e1]
  have hci1 : (completion i s).finish.cipher = completionCipher s i := by simp [completion_cipher]
  have hci2 : (completion i s.specified).finish.cipher = completionCipher s.specified i := by simp [completion_cipher]
  have hmem : (completion i s).finish.mem = (completion i s.specified).finish.mem := by
    rw [State.finish_mem, State.finish_mem, completion_mem, completion_mem, completionWrites_specified h]
    rfl
  have hf : (completion i s).finish.fklen = (completion i s.specified).finish.fklen := by
    rw [State.finish_fklen, State.finish_fklen, completion_fklen, completion_fklen]
    rfl
  have ho : (completion i s).finish.oklen = (completion i s.specified).finish.oklen := by
    rw [State.finish_oklen, State.finish_oklen, completion_oklen, completion_oklen, e2]
  unfold State.specified at *
  rw [State.mk.injEq, hmem, hf, ho, hcv1, hcv2, hci1, hci2]
  refine ⟨?_, ?_, ?_, ?_, ?_, ?_, ?_, ?_, ?_, ?_, ?_, ?_, ?_, ?_, ?_, ?_, ?_, ?_, ?_, ?_, ?_, ?_, ?_, ?_, ?_, ?_, ?_⟩ <;>
    try simp
  cases hv : completionCvalid s i with
  | true => rw [hc hv]
  | false => simp

/-- A read depends on the specified parts alone (R85). -/
theorem specified_hostRead (a : PortAddr) (s : State) :
    (hostRead a s).specified = (hostRead a s.specified).specified := by
  have hp : s.specified.params = s.params := rfl
  have hb : s.specified.busy = s.busy := rfl
  have hw : ∀ loc, s.specified.wordAt loc = s.wordAt loc := by
    intro loc
    cases loc with
    | reg r => cases r <;> rfl
    | buf b k => rfl
  unfold hostRead
  rw [hp]
  cases locate s.params a with
  | none =>
    show ((s.raise .addr).specified).answer 0 = ((s.specified.raise .addr).specified).answer 0
    rw [specified_raise, specified_raise, specified_idem]
  | some loc =>
    dsimp only
    rw [hw, hb]
    split
    · show s.specified.answer _ = s.specified.specified.answer _
      rw [specified_idem]
    · split
      · show (s.specified.answer _).nextDraw = (s.specified.specified.answer _).nextDraw
        rw [specified_idem]
        rfl
      · show s.specified.answer _ = s.specified.specified.answer _
        rw [specified_idem]

end Sys2Proof.Machine
end

