-- ==== Sys2Proof/Laws/Schedule.lean ====
section
/-! SUPPORT. The finer model of Machine/Schedule.lean, said once: what absorbing a block leaves, and what the sequencer
holds at each position of a schedule. -/

namespace Sys2Proof.Machine

/-- The rounds write the working accumulators only. -/
theorem foldl_round (d : DigestState) (l : List Nat) :
    l.foldl DigestState.round d = { d with work := l.foldl (digestRound d.blk.toList) d.work } := by
  induction l generalizing d with
  | nil => rfl
  | cons i l ih => simp only [List.foldl_cons]; rw [ih]; rfl

/-- Absorbing a block compresses it into the running accumulators and counts its bytes (R144, R147). -/
theorem absorb_block (d : DigestState) {b : List Byte} (hb : b.length = 64) :
    (d.absorb b).h = compress d.h b ∧ (d.absorb b).nbytes = d.nbytes + 64 := by
  unfold DigestState.absorb
  rw [foldl_round]
  have h : (d.loadBlock b).blk.toList = b := toList_toRegister hb
  rw [h]
  exact ⟨rfl, rfl⟩

/-- What a command leaves does not depend on the sequencer's state before (R56). -/
theorem finish_completion_seq (i : Instr) (s : State) (q : Sequencer) :
    (completion i { s with seq := q }).finish = (completion i s).finish := by
  cases i with
  | nop => rfl
  | digest => simp only [completion, completeDigest_eq]; rfl
  | rc4Init => simp only [completion, completeRc4Init_eq]; rfl
  | rc4Proc => simp only [completion, completeRc4Proc_eq]; rfl
  | pad sel => simp only [completion, completePad_eq]; rfl
  | deriveOwner => simp only [completion, completeDeriveOwner_eq]; rfl
  | deriveFkey => simp only [completion, completeDeriveFkey_eq]; rfl
  | deriveUser => simp only [completion, completeDeriveUser_eq]; rfl
  | objkey => simp only [completion, completeObjkey_eq]; rfl
  | encObj => simp only [completion, completeEncObj_eq, completeObjkey_eq]; rfl

/-- `DERIVE_FKEY` after its first step and `n` re-digests. -/
theorem schedule_deriveFkey (s : State) (n : Nat) : ∃ q : Sequencer,
    (scheduleStep .deriveFkey)^[n + 1] s.scheduleStart = { s with seq := q } ∧ q.position = n + 1 ∧
    q.digestTmp.toList =
      redigest n (md5 (padPassword s.userPassword ++ s.ownerValue ++ bytesLe s.perm.toNat 4 ++ s.fileId)) := by
  induction n with
  | zero => exact ⟨_, rfl, rfl, toList_toRegister (length_md5 _)⟩
  | succ n ih =>
    obtain ⟨q, e, hp, hq⟩ := ih
    rw [Function.iterate_succ_apply', e]
    refine ⟨q.digestStep q.digestTmp.toList, ?_, by simp [Sequencer.digestStep, hp], ?_⟩
    · unfold scheduleStep
      dsimp only
      rw [if_neg (by omega)]
    · rw [redigest_succ _ (length_md5 _), ← hq]
      exact toList_toRegister (length_md5 _)

/-- `DERIVE_OWNER` after its first step and `n` re-digests. -/
theorem schedule_deriveOwner_digests (s : State) (n : Nat) (hn : n < 51) : ∃ q : Sequencer,
    (scheduleStep .deriveOwner)^[n + 1] s.scheduleStart = { s with seq := q } ∧ q.position = n + 1 ∧
    q.digestTmp.toList = redigest n (md5 (padPassword (effectivePassword s.ownerPassword s.userPassword))) ∧
    q.dataTmp.toList = padPassword s.userPassword := by
  induction n with
  | zero => exact ⟨_, rfl, rfl, toList_toRegister (length_md5 _), toList_toRegister (length_padPassword _)⟩
  | succ n ih =>
    obtain ⟨q, e, hp, hq, hd⟩ := ih (by omega)
    rw [Function.iterate_succ_apply', e]
    refine ⟨q.digestStep q.digestTmp.toList, ?_, by simp [Sequencer.digestStep, hp], ?_, hd⟩
    · unfold scheduleStep
      dsimp only
      rw [if_neg (by omega), if_pos (by omega)]
    · rw [redigest_succ _ (length_md5 _), ← hq]
      exact toList_toRegister (length_md5 _)

/-- `DERIVE_OWNER` after its digests and `n` cipher passes. -/
theorem schedule_deriveOwner_passes (s : State) (n : Nat) : ∃ q : Sequencer,
    (scheduleStep .deriveOwner)^[n + 51] s.scheduleStart = { s with seq := q } ∧ q.position = n + 51 ∧
    q.digestTmp.toList = ownerBaseKey s.ownerPassword s.userPassword ∧
    q.dataTmp.toList = cipherPasses (ownerBaseKey s.ownerPassword s.userPassword) n (padPassword s.userPassword) := by
  induction n with
  | zero =>
    obtain ⟨q, e, hp, hq, hd⟩ := schedule_deriveOwner_digests s 50 (by omega)
    refine ⟨q, ?_, hp, hq, hd⟩
    rw [show 0 + 51 = 50 + 1 from rfl]
    exact e
  | succ n ih =>
    obtain ⟨q, e, hp, hq, hd⟩ := ih
    rw [show n + 1 + 51 = (n + 51) + 1 by omega, Function.iterate_succ_apply', e]
    refine ⟨q.passStep (xorKey q.digestTmp.toList (BitVec.ofNat 8 (q.position - 51))) 32, ?_,
      by simp [Sequencer.passStep, hp], hq, ?_⟩
    · unfold scheduleStep
      dsimp only
      rw [if_neg (by omega), if_neg (by omega)]
    · rw [cipherPasses_succ, ← hd, ← hq]
      have h : q.position - 51 = n := by omega
      simp only [Sequencer.passStep, h]
      rw [List.take_of_length_le (by simp)]
      exact toList_toRegister (by simp)

/-- `DERIVE_USER` after its digest and `n` cipher passes. -/
theorem schedule_deriveUser (s : State) (n : Nat) : ∃ q : Sequencer,
    (scheduleStep .deriveUser)^[n + 1] s.scheduleStart = { s with seq := q } ∧ q.position = n + 1 ∧
    q.dataTmp.toList.take 16 = cipherPasses s.fileKey n (md5 (padding ++ s.fileId)) := by
  induction n with
  | zero => exact ⟨_, rfl, rfl, take_toRegister (length_md5 _) (by omega)⟩
  | succ n ih =>
    obtain ⟨q, e, hp, hd⟩ := ih
    rw [Function.iterate_succ_apply', e]
    refine ⟨q.passStep (xorKey s.fileKey (BitVec.ofNat 8 (q.position - 1))) 16, ?_,
      by simp [Sequencer.passStep, hp], ?_⟩
    · unfold scheduleStep
      dsimp only
      rw [if_neg (by omega)]
      rfl
    · rw [cipherPasses_succ, ← hd]
      have h : q.position - 1 = n := by omega
      simp only [Sequencer.passStep, h]
      exact take_toRegister (by simp) (by omega)

end Sys2Proof.Machine
end

