-- ==== Sys2Proof/Tests/Slice0.lean ====
section
/-! SUPPORT. Tests: words of the encoding, ill-formed terms refused, one event of each command, and for every statement
with hypotheses a concrete state that meets them. The expected values are those of spec/95_test_vectors.md (its vectors
are named D, C, N, K, O, F there) or computed by hand from the rule named. -/

namespace Sys2Proof.Tests

open Sys2Proof Sys2Proof.Machine

/-! ### Decoding: every word of 30_encoding.md R111, bit by bit: `RSV` 23 bits, `SEL` 1 bit, `OP` 8 bits -/

theorem test_decode_nop : decode (0b00000000000000000000000#23 ++ 0b0#1 ++ 0b00000000#8) = .ok .nop := by decide
theorem test_decode_digest : decode (0b00000000000000000000000#23 ++ 0b0#1 ++ 0b00000001#8) = .ok .digest := by decide
theorem test_decode_rc4_init : decode (0b00000000000000000000000#23 ++ 0b0#1 ++ 0b00000010#8) = .ok .rc4Init := by decide
theorem test_decode_rc4_proc : decode (0b00000000000000000000000#23 ++ 0b0#1 ++ 0b00000011#8) = .ok .rc4Proc := by decide
theorem test_decode_pad_user : decode (0b00000000000000000000000#23 ++ 0b0#1 ++ 0b00000100#8) = .ok (.pad .user) := by
  decide
theorem test_decode_pad_owner : decode (0b00000000000000000000000#23 ++ 0b1#1 ++ 0b00000100#8) = .ok (.pad .owner) := by
  decide
theorem test_decode_derive_owner : decode (0b00000000000000000000000#23 ++ 0b0#1 ++ 0b00010000#8) = .ok .deriveOwner := by
  decide
theorem test_decode_derive_fkey : decode (0b00000000000000000000000#23 ++ 0b0#1 ++ 0b00010001#8) = .ok .deriveFkey := by
  decide
theorem test_decode_derive_user : decode (0b00000000000000000000000#23 ++ 0b0#1 ++ 0b00010010#8) = .ok .deriveUser := by
  decide
theorem test_decode_objkey : decode (0b00000000000000000000000#23 ++ 0b0#1 ++ 0b00100000#8) = .ok .objkey := by decide
theorem test_decode_enc_obj : decode (0b00000000000000000000000#23 ++ 0b0#1 ++ 0b00100001#8) = .ok .encObj := by decide

/-- The illegal words (R114, and section 7 of the vectors), each refused by its name. -/
theorem test_decode_refuses_opcode : decode 0x00000005 = .error .opcodeNotAssigned ∧
    decode 0x0000000F = .error .opcodeNotAssigned ∧ decode 0x00000013 = .error .opcodeNotAssigned ∧
    decode 0x00000022 = .error .opcodeNotAssigned ∧ decode 0x000000FF = .error .opcodeNotAssigned := by decide
theorem test_decode_refuses_selector : decode 0x00000100 = .error .selectorNotAllowed ∧
    decode 0x00000101 = .error .selectorNotAllowed ∧ decode 0x00000121 = .error .selectorNotAllowed := by decide
theorem test_decode_refuses_reserved : decode 0x00000204 = .error .reservedBitSet ∧
    decode 0x80000000 = .error .reservedBitSet ∧ decode 0xFFFFFFFF = .error .reservedBitSet := by decide

/-- A row of the opcode table: 32 bits; a number that is no 32-bit word has no instruction. -/
theorem test_decode_table_word : decodeTableWord 32 0x104 = some (.pad .owner) ∧ decodeTableWord 8 0x21 = some .encObj ∧
    decodeTableWord 32 0x05 = none ∧ decodeTableWord 64 0x100000001 = none := by decide

/-! ### Well-formedness: an ill-formed term for each check (00_scope.md R9, 30_encoding.md R110) -/

theorem test_params_msg_size_multiple : ¬ ({ msgSize := 4098, fidSize := 256 } : Params).wf := by decide
theorem test_params_msg_size_low : ¬ ({ msgSize := 60, fidSize := 256 } : Params).wf := by decide
theorem test_params_msg_size_high : ¬ ({ msgSize := 0xF004, fidSize := 256 } : Params).wf := by decide
theorem test_params_fid_size_multiple : ¬ ({ msgSize := 4096, fidSize := 18 } : Params).wf := by decide
theorem test_params_fid_size_low : ¬ ({ msgSize := 4096, fidSize := 12 } : Params).wf := by decide
theorem test_params_fid_size_high : ¬ ({ msgSize := 4096, fidSize := 260 } : Params).wf := by decide
theorem test_params_bounds : ({ msgSize := 64, fidSize := 16 } : Params).wf ∧
    ({ msgSize := 0xF000, fidSize := 256 } : Params).wf ∧ defaultParams.wf := by decide
theorem test_word_reserved_bit : ¬ commandWordWf 0x00000200 := by decide
theorem test_word_selector_bit : ¬ commandWordWf 0x00000101 := by decide
theorem test_word_unassigned_code : ¬ commandWordWf 0x00000005 := by decide
theorem test_every_term_is_wf : Instr.wf (.pad .owner) = true ∧ Instr.wf .encObj = true := by decide

/-! ### A small state for the tests and the witnesses -/

/-- Idle: `UPW` "secret123", `OVAL` 32 bytes 5A, `FKEY` 11 22 33 44 55, `KEY` "Key", `FID` DE AD BE EF, `MSG` "abc", their lengths, object 7
generation 0, and a cipher state that may be continued. -/
def sample (events : List Event) : State :=
  { State.reset with
    events := events
    mlen := 3
    klen := 3
    upwlen := 9
    fidlen := 4
    fklen := 5
    perm := 0xFFFFFFFC
    objnum := 7
    cvalid := true
    cipher := { S := identityTable, i := 0, j := 0 }
    mem := Memory.writeBytes (Memory.writeBytes (Memory.writeBytes (Memory.writeBytes (Memory.writeBytes
      (Memory.writeBytes [] 0x0080 [0x73, 0x65, 0x63, 0x72, 0x65, 0x74, 0x31, 0x32, 0x33])
      0x00C0 (List.replicate 32 0x5A))
      0x0100 [0x11, 0x22, 0x33, 0x44, 0x55])
      0x0200 [0x4B, 0x65, 0x79])
      0x0300 [0xDE, 0xAD, 0xBE, 0xEF])
      0x1000 [0x61, 0x62, 0x63] }

/-- The same, with the command `i` accepted. -/
def running (i : Instr) (events : List Event) : State := (sample events).accept (encode i)

/-- The outcome is a next state of which `f` holds. -/
def nextIs (r : Result) (f : State → Bool) : Bool :=
  match r with
  | .next t => f t
  | .fault _ => false
  | .refused _ => false

/-- Every constructor, both values of the selector. -/
def everyInstr : List Instr :=
  [.nop, .digest, .rc4Init, .rc4Proc, .pad .user, .pad .owner, .deriveOwner, .deriveFkey, .deriveUser, .objkey, .encObj]

/-! ### One event of each command -/

/-- After reset, with nothing placed, a word placed with `withFetchWord` is submitted by the very next step: the commands
whose checks pass after reset are accepted (R262). -/
theorem test_first_step_accepts : [Instr.nop, .digest, .pad .user, .pad .owner, .deriveOwner, .deriveFkey].all (fun i =>
    nextIs (step (State.reset.withFetchWord 32 (encode i).toNat)) fun t =>
      t.busy && t.cmd == encode i && t.pending == encode i) = true := by decide

/-- And the others are turned away with the code of their first failing check (R285): `KLEN`, `FKLEN`, `CVALID` are 0. -/
theorem test_first_step_rejects : [(Instr.rc4Init, 4#4), (.rc4Proc, 5#4), (.deriveUser, 4#4), (.objkey, 4#4),
    (.encObj, 4#4)].all (fun p => nextIs (step (State.reset.withFetchWord 32 (encode p.1).toNat)) fun t =>
      !t.busy && t.err && t.errcode == p.2 && t.cmd == 0) = true := by decide

/-- `NOP` (R265): `DONE` set, `BUSY` cleared. -/
theorem test_nop : nextIs (step (running .nop [])) (fun t => !t.busy && t.done) = true := by decide

/-- D3: `MD5("abc")` in `DOUT`. -/
theorem test_digest_abc : (completeDigest (sample [])).bytesAt 0x0120 16 =
    [0x90, 0x01, 0x50, 0x98, 0x3C, 0xD2, 0x4F, 0xB0, 0xD6, 0x96, 0x3F, 0x7D, 0x28, 0xE1, 0x7F, 0x72] := by
  decide +kernel

/-- R149, U6: over a byte never written `DOUT` is no digest but as many free bytes; over no byte at all it is D1, whatever
`MSG` holds. -/
theorem test_digest_unwritten :
    (completeDigest { State.reset with mlen := 1 }).cell 0x0120 = some (Config.outputByte 0 0x0120) ∧
    (completeDigest State.reset).cell 0x0120 = some 0xD4 := by
  refine ⟨?_, by decide +kernel⟩
  rw [completeDigest_cell]
  rfl

/-- D7: 56 bytes, two blocks, so the running accumulators are used twice (R147). -/
theorem test_digest_two_blocks : md5 (List.replicate 56 0x61) =
    [0x3B, 0x0C, 0x8A, 0xC7, 0x03, 0xF8, 0x28, 0xB0, 0x4C, 0x6C, 0x19, 0x70, 0x06, 0xD1, 0x72, 0x18] := by
  decide +kernel

/-- The first four mixing steps for the key "Key" have the partners 75, 177, 44, 122 (section 3 of the vectors). -/
theorem test_rc4_init_mixing : [1, 2, 3, 4].map (fun n =>
    ((List.range n).foldl (mixStep [0x4B, 0x65, 0x79]) (identityTable, 0)).2) = [75, 177, 44, 122] := by decide +kernel

/-- `CVALID` is set by `RC4_INIT` (R173). -/
theorem test_rc4_init_cvalid : nextIs (exec .rc4Init { running .rc4Init [] with cvalid := false })
    (fun t => t.cvalid && t.done) = true := by decide

/-- Two keystream steps by hand from the table 0, 1, 2, ...: `i = 1`, `j = 1`, byte `S[1 + 1] = 2`; then `i = 2`, `j = 3`,
`S[2]` and `S[3]` swapped, byte `S[3 + 2] = 5` (R172). -/
theorem test_rc4_proc_two_steps : (cipherProcess (sample []).cipher [0x00, 0x10]).2 = [0x02, 0x15] := by decide +kernel

/-- The cursors after the three bytes of `MSG`: `i = 3`, and `j = 3 + S[3] = 3 + 2 = 5` (R172). -/
theorem test_rc4_proc_cursors : nextIs (step (running .rc4Proc []))
    (fun t => t.cipher.i == 3 && t.cipher.j == 5) = true := by decide +kernel

/-- N2: `PAD` of "secret123". -/
theorem test_pad_user : (completePad .user (sample [])).bytesAt 0x0140 32 =
    [0x73, 0x65, 0x63, 0x72, 0x65, 0x74, 0x31, 0x32, 0x33, 0x28, 0xBF, 0x4E, 0x5E, 0x4E, 0x75, 0x8A, 0x41, 0x64, 0x00, 0x4E,
      0x56, 0xFF, 0xFA, 0x01, 0x08, 0x2E, 0x2E, 0x00, 0xB6, 0xD0, 0x68, 0x3E] := by decide

/-- N1: `PAD` of the empty owner password, whatever `UPW` holds. -/
theorem test_pad_owner : (completePad .owner (sample [])).bytesAt 0x0140 8 =
    [0x28, 0xBF, 0x4E, 0x5E, 0x4E, 0x75, 0x8A, 0x41] := by decide

/-- K6: `CVALID` is 0 after `DERIVE_OWNER`. -/
theorem test_derive_owner_cvalid : nextIs (step (running .deriveOwner [])) (fun t => !t.cvalid && t.done) = true := by decide

/-- F1: the first digest of the owner base key, and the first re-digest. -/
theorem test_derive_owner_base : redigest 1 (md5 (padPassword (effectivePassword [] (sample []).userPassword))) =
    [0xFD, 0xD7, 0x36, 0x30, 0xE2, 0x72, 0x8E, 0x01, 0xFA, 0xEA, 0x4E, 0xA0, 0x60, 0x20, 0xA3, 0x65] := by decide +kernel

/-- K5: `FKLEN` is 16 after `DERIVE_FKEY`, whatever it was before. -/
theorem test_derive_fkey_length : nextIs (step (running .deriveFkey [])) (fun t => t.fklen == 16 && t.cvalid) = true := by
  decide

/-- K2: with a 5-byte key, the key of pass 19 has 5 bytes too. -/
theorem test_derive_user_pass_key : xorKey (sample []).fileKey 19 = [0x02, 0x31, 0x20, 0x57, 0x46] := by decide

/-- F3: the digest `DERIVE_USER` starts from, `MD5(PADDING, fid)`. -/
theorem test_derive_user_digest : md5 (padding ++ (sample []).fileId) =
    [0x9B, 0x97, 0x98, 0x76, 0x79, 0x2E, 0xEB, 0x7D, 0x52, 0x13, 0x2F, 0x62, 0x4A, 0x80, 0x05, 0x15] := by decide +kernel

/-- O7: a 5-byte file key gives a 10-byte object key, the rest of `OKEY` is zero. -/
theorem test_objkey : (completeObjkey (sample [])).bytesAt 0x0110 16 =
    [0xD2, 0x91, 0x71, 0x7D, 0x8A, 0xBC, 0xDE, 0x09, 0xEC, 0x7A, 0x00, 0x00, 0x00, 0x00, 0x00, 0x00] := by decide +kernel

theorem test_objkey_length : nextIs (step (running .objkey [])) (fun t => t.oklen == 10) = true := by decide +kernel

/-- R243: `ENC_OBJ` writes `OKLEN` as `OBJKEY` does, and leaves a cipher state that may be continued. -/
theorem test_enc_obj : nextIs (step (running .encObj [])) (fun t => t.oklen == 10 && t.cvalid && t.done) = true := by
  decide +kernel

/-! ### The port -/

/-- A misaligned write sets `ERR` and code 6: `STATUS` reads 0x00000604 (R36, R87). -/
theorem test_misaligned_write : nextIs (step { State.reset with events := [.write 0x0001 0] })
    (fun t => t.statusWord == 0x00000604) = true := by decide

/-- O6: `OBJNUM` and `GENNUM` keep 24 and 16 bits (R41). -/
theorem test_object_address_bits : nextIs (step { State.reset with events := [.write 0x0040 0x01000007] })
      (fun t => t.register .objnum == 0x00000007) = true ∧
    nextIs (step { State.reset with events := [.write 0x0044 0x00010000] })
      (fun t => t.register .gennum == 0x00000000) = true := by decide

/-- R83: the byte at the lower address stands in the lower bits. -/
theorem test_buffer_read : nextIs (step (sample [.read 0x0300])) (fun t => t.response == some 0xEFBEADDE) = true := by decide

/-! ### The hypotheses of the statements are met. One theorem for each statement that has hypotheses, its clauses and the
boundaries of its ranges in it. -/

/-- The sample state meets the invariant. -/
theorem witness_inv_idle (events : List Event) : (sample events).Inv where
  paramsLegal := show defaultParams.wf by decide
  memCanonical := show Memory.wf (sample []).mem by decide
  memMapped := by
    have h : ∀ c ∈ (sample []).mem, ∃ b ∈ Buf.all, b.base ≤ c.1 ∧ c.1 < b.base + b.size defaultParams := by decide
    intro c hc
    obtain ⟨b, _, h1, h2⟩ := h c hc
    exact ⟨b, h1, h2⟩
  codeLegal := Nat.zero_le _
  codeOfFlag := ⟨fun _ => rfl, fun _ => rfl⟩
  cmdLegal := ⟨.nop, show decode 0 = .ok .nop by decide⟩
  okeyLength := .inl rfl
  busyPending h := absurd h (show ¬ (false = true) by decide)
  busyNotDone h := absurd h (show ¬ (false = true) by decide)
  busyChecked h := absurd h (show ¬ (false = true) by decide)
  cipherKeyed _ := identityTable_perm

/-- Every command is accepted in the sample state: no check fails. -/
theorem witness_EveryCommandIsAccepted (i : Instr) : (sample []).busy = false ∧ (sample []).submissionError i = none := by
  cases i <;> first | decide | (rename_i sel; cases sel <;> decide)

/-- And is then in execution in a busy state that meets the invariant: the hypotheses of the ten completion statements and
of `ScheduleReachesTheCompletion`, `BusyCoreBecomesIdle`, `StepKeepsTheInvariant`, `InvariantStatesNeverStop`. -/
theorem witness_completions (i : Instr) : (running i []).Inv ∧ (running i []).busy = true ∧
    decode (running i []).pending = .ok i :=
  ⟨inv_accept (witness_inv_idle []) (witness_EveryCommandIsAccepted i).2, rfl, decode_encode i⟩

/-- The lengths pass their checks and the inputs were written: the premises of the completion statements and of the clauses
about written inputs. -/
theorem witness_completion_inputs (i : Instr) :
    (running i []).mlen.toNat ≤ (running i []).params.msgSize ∧
    (running i []).fidlen.toNat ≤ (running i []).params.fidSize ∧
    1 ≤ (running i []).klen.toNat ∧ (running i []).klen.toNat ≤ 256 ∧
    5 ≤ (running i []).fklen.toNat ∧ (running i []).fklen.toNat ≤ 16 ∧ (running i []).cvalid = true ∧
    allWritten (running i []) 0x1000 (running i []).mlen.toNat ∧
    allWritten (running i []) 0x0200 (running i []).klen.toNat ∧
    allWritten (running i []) 0x0080 (min (running i []).upwlen.toNat 32) ∧
    allWritten (running i []) 0x00A0 (min (running i []).opwlen.toNat 32) ∧
    allWritten (running i []) 0x00C0 32 ∧
    allWritten (running i []) 0x0300 (running i []).fidlen.toNat ∧
    allWritten (running i []) 0x0100 (running i []).fklen.toNat := by
  have w : ∀ p ∈ ([(0x1000, 3), (0x0200, 3), (0x0080, 9), (0x00A0, 0), (0x00C0, 32), (0x0300, 4), (0x0100, 5)] :
      List (Nat × Nat)), ∀ k, k < p.2 → ((sample []).cell (p.1 + k)).isSome = true := by decide +kernel
  have n : 3 ≤ 4096 ∧ 4 ≤ 256 ∧ 1 ≤ 3 ∧ 3 ≤ 256 ∧ 5 ≤ 5 ∧ 5 ≤ 16 := by decide
  refine ⟨n.1, n.2.1, n.2.2.1, n.2.2.2.1, n.2.2.2.2.1, n.2.2.2.2.2, rfl, ?_, ?_, ?_, ?_, ?_, ?_, ?_⟩
  · exact w (0x1000, 3) (by decide)
  · exact w (0x0200, 3) (by decide)
  · exact w (0x0080, 9) (by decide)
  · exact w (0x00A0, 0) (by decide)
  · exact w (0x00C0, 32) (by decide)
  · exact w (0x0300, 4) (by decide)
  · exact w (0x0100, 5) (by decide)

/-- The ends of their ranges: the lengths at the capacities, and both ends of the key lengths; a payload of no byte. -/
theorem witness_completion_boundaries : (4096#32).toNat ≤ (sample []).params.msgSize ∧
    (256#32).toNat ≤ (sample []).params.fidSize ∧ 1 ≤ (1#32).toNat ∧ (256#32).toNat ≤ 256 ∧ 5 ≤ (5#32).toNat ∧
    (16#32).toNat ≤ 16 ∧ allWritten (sample []) 0x1000 (0#32).toNat ∧ allWritten (sample []) (0x1000 + 2) 1 := by
  refine ⟨by decide, by decide, by decide, by decide, by decide, by decide, fun k h => absurd h (Nat.not_lt_zero k), ?_⟩
  have w : ∀ k, k < 1 → ((sample []).cell (0x1000 + 2 + k)).isSome = true := by decide
  exact w

/-- Both selectors at the last password byte used: byte 8 of a 9-byte user password, and byte 31 of an owner password whose
length register says 33. -/
theorem witness_PadCompletes : (running (.pad .user) []).busy = true ∧ 8 < min (running (.pad .user) []).upwlen.toNat 32 ∧
    (running (.pad .user) []).cell (0x0080 + 8) = some 0x33 ∧ 31 < min (33#32).toNat 32 ∧
    ({ sample [] with opwlen := 33, mem := Memory.writeBytes [] 0x00A0 (List.replicate 32 0x41) } : State).cell
      (0x00A0 + 31) = some 0x41 := by decide

theorem witness_StepKeepsTheInvariant : ∃ t, (running .nop []).Inv ∧ step (running .nop []) = .next t :=
  ⟨_, (witness_completions .nop).1, rfl⟩

theorem witness_BusyCoreBecomesIdle : (running .encObj [.read 0x0004, .write 0x0020 9]).Inv ∧
    (running .encObj [.read 0x0004, .write 0x0020 9]).busy = true :=
  ⟨inv_accept (witness_inv_idle _) (by decide), rfl⟩

theorem witness_StepRunsDecodedCommand : (sample [.write 0x0000 0x104]).events = .write 0x0000 0x104 :: [] ∧
    (sample [.write 0x0000 0x104]).busy = false ∧ decode 0x104 = .ok (.pad .owner) ∧
    (running .encObj [.core]).events = .core :: [] ∧ (running .encObj []).events = [] ∧
    (running .encObj []).busy = true ∧ decode (running .encObj []).pending = .ok .encObj := by decide

theorem witness_StepRunsPlacedCommand : (sample []).busy = false ∧ (running .nop []).busy = true := by decide

theorem witness_IdleCoreOnlyWaits : (sample [.core]).events = .core :: [] ∧ (sample []).events = [] ∧
    (sample []).busy = false := by decide

theorem witness_AcceptanceWritesOnlyTheCommand : everyInstr.all (fun i =>
    (sample [.write 0x0000 (encode i)]).events = .write 0x0000 (encode i) :: [] ∧
    (sample [.write 0x0000 (encode i)]).busy = false ∧ decode (encode i) = .ok i ∧
    (sample [.write 0x0000 (encode i)]).submissionError i = none) = true := by decide

/-- An illegal word, and each check at its boundary: `MLEN` and `FIDLEN` one above the capacity, `KLEN` 0 and 257, `FKLEN`
4 and 17, `CVALID` 0. -/
theorem witness_RejectionWritesOnlyTheErrorFlags :
    decode 0x05 = .error .opcodeNotAssigned ∧
    ({ sample [] with mlen := 4097 } : State).submissionError .digest = some .len ∧
    ({ sample [] with fidlen := 257 } : State).submissionError .deriveFkey = some .len ∧
    ({ sample [] with klen := 0 } : State).submissionError .rc4Init = some .keylen ∧
    ({ sample [] with klen := 257 } : State).submissionError .rc4Init = some .keylen ∧
    ({ sample [] with fklen := 4 } : State).submissionError .deriveUser = some .keylen ∧
    ({ sample [] with fklen := 17 } : State).submissionError .objkey = some .keylen ∧
    ({ sample [] with cvalid := false } : State).submissionError .rc4Proc = some .nocipher := by decide

/-- Every code `submissionCode` can give, at the boundary values, the earlier check winning where two fail; and no code at
the largest values that pass. -/
theorem witness_SubmissionChecksInOrder : (sample [.write 0x0000 0x01]).events = .write 0x0000 0x01 :: [] ∧
    submissionCode (running .nop []) 0x05 = 1 ∧ submissionCode (sample []) 0x05 = 2 ∧
    submissionCode { sample [] with mlen := 4097, fklen := 4 } 0x21 = 3 ∧
    submissionCode { sample [] with mlen := 4097, cvalid := false } 0x03 = 3 ∧
    submissionCode { sample [] with fidlen := 257, fklen := 17 } 0x12 = 3 ∧
    submissionCode { sample [] with klen := 0 } 0x02 = 4 ∧ submissionCode { sample [] with klen := 257 } 0x02 = 4 ∧
    submissionCode { sample [] with fklen := 4 } 0x20 = 4 ∧ submissionCode { sample [] with cvalid := false } 0x03 = 5 ∧
    submissionCode { sample [] with mlen := 4096, fklen := 16 } 0x21 = 0 ∧
    submissionCode { sample [] with klen := 256 } 0x02 = 0 ∧ submissionCode { sample [] with fidlen := 256 } 0x12 = 0 := by
  decide

/-- A written byte and one never written, at the last place read. -/
theorem witness_OperandBytesAreReadAsWritten : (sample []).cell (0x1000 + 2) = some 0x63 ∧
    (sample []).cell (0x1000 + 3) = none ∧ 2 < 3 ∧ 3 < 4 := by decide

/-- R141, section 1 of the vectors: 55 bytes take no zero byte, 56 take 63. -/
theorem witness_DigestPaddingFillsBlocks : (55 + 1 + 0) % 64 = 56 ∧ (56 + 1 + 63) % 64 = 56 ∧ padZeros 55 = 0 ∧
    padZeros 56 = 63 ∧ blockCount 55 = 1 ∧ blockCount 56 = 2 ∧ padZeros 0 = 55 := by decide

/-- A permutation; and the last mixing step with a three-byte key, whose byte is `key[255 mod 3] = key[0]`. -/
theorem witness_CipherTableStaysAPermutation : isPermutation (sample []).cipher.S ∧ 255 < 256 ∧
    ([0x4B, 0x65, 0x79] : List Byte)[255 % ([0x4B, 0x65, 0x79] : List Byte).length]? = some 0x4B :=
  ⟨identityTable_perm, by decide, by decide⟩

/-- A keystream step from the identity table: `i' = 1`, `j' = 1`, `n = S'[1] + S'[1] = 2`, and no other entry moves; by hand
from R172. -/
theorem witness_KeystreamIgnoresTheData : (cipherProcess (sample []).cipher [0x10]).1.i = 1 ∧
    (cipherProcess (sample []).cipher [0x10]).1.j = 1 ∧ (cipherProcess (sample []).cipher [0x10]).2 = [0x12] ∧
    (255 : Nat) ≠ (1#8).toNat := by decide +kernel

theorem witness_PaddedPasswordForms : 32 ≤ (List.replicate 32 (0x61 : Byte)).length ∧
    (List.replicate 31 (0x61 : Byte)).length < 32 := by decide

theorem witness_XorKeyXorsEveryByte : ([0x00, 0xFF] : List Byte)[1]? = some 0xFF := by decide

theorem witness_ObjectKeyLengthAndAddressBits : 0x01000007 % 2 ^ 24 = 7 % 2 ^ 24 ∧ 0x00010000 % 2 ^ 16 = 0 % 2 ^ 16 := by
  decide

/-- The two extreme parameter choices; the last word of the largest `MSG` ends the address space. -/
theorem witness_AddressMapIsExact : ({ msgSize := 64, fidSize := 16 } : Params).wf ∧
    ({ msgSize := 0xF000, fidSize := 256 } : Params).wf ∧ (0xEFFC : Nat) % 4 = 0 ∧
    (0xEFFC : Nat) < Buf.msg.size { msgSize := 0xF000, fidSize := 256 } ∧
    locate { msgSize := 0xF000, fidSize := 256 } 0xFFFC = some (.buf .msg 0xEFFC) ∧
    locate { msgSize := 64, fidSize := 16 } 0x030C = some (.buf .fid 12) ∧
    locate { msgSize := 64, fidSize := 16 } 0x0310 = none ∧ locate defaultParams 0x0044 = some (.reg .gennum) := by decide

/-- The first and last word of every hole of the map, and a misaligned address; the mapped words beside the holes are not
unmapped. -/
theorem witness_RefusedTransactionsRaiseAddr : (sample []).params.wf ∧ (0x0001 : PortAddr).toNat % 4 ≠ 0 ∧
    (∀ a ∈ ([0x001C, 0x0048, 0x007C, 0x0130, 0x013C, 0x0160, 0x01FC, 0x0400, 0x0FFC, 0x2000, 0xFFFC] : List Nat),
      unmapped defaultParams a) ∧
    (∀ a ∈ ([0x0018, 0x0020, 0x0044, 0x0080, 0x012C, 0x0140, 0x015C, 0x0200, 0x03FC, 0x1000, 0x1FFC] : List Nat),
      ¬ unmapped defaultParams a) := by
  simp only [unmapped]
  decide

theorem witness_LiveRegistersReadAtAnyTime : (running .nop [.read 0x0018]).events = .read 0x0018 :: [] ∧
    (running .nop []).busy = true := by decide

theorem witness_BusyReadChangesNothing : (running .nop [.read 0x1FFC]).events = .read 0x1FFC :: [] ∧
    (running .nop []).busy = true ∧ locate (running .nop []).params 0x1FFC = some (.buf .msg 0xFFC) ∧
    (Location.buf .msg 0xFFC).live = false ∧ locate (running .nop []).params 0x0000 = some (.reg .cmd) ∧
    (Location.reg .cmd).live = false := by decide

/-- Each idle-only register at its address, and a buffer word. -/
theorem witness_IdleReadReturnsTheLocation : (sample [.read 0x0300]).busy = false ∧
    ([(0x0000, 0), (0x0020, 3), (0x0024, 3), (0x0028, 9), (0x002C, 0), (0x0030, 4), (0x0034, 5), (0x0038, 0),
      (0x003C, 0xFFFFFFFC), (0x0040, 7), (0x0044, 0)] : List (PortAddr × Word)).all (fun p =>
        nextIs (step (sample [.read p.1])) fun t => t.response == some p.2) = true ∧
    locate (sample []).params 0x0300 = some (.buf .fid 0) ∧
    (sample []).cell (0x0300 + 0) = some 0xDE ∧ (sample []).cell (0x0300 + 0 + 1) = some 0xAD ∧
    (sample []).cell (0x0300 + 0 + 2) = some 0xBE ∧ (sample []).cell (0x0300 + 0 + 3) = some 0xEF := by decide

theorem witness_ReadsAreIdempotent :
    (sample [.read 0x0020, .read 0x0020]).events = .read 0x0020 :: .read 0x0020 :: [] ∧ (sample []).busy = false ∧
    locate (sample []).params 0x0020 = some (.reg .mlen) ∧
    nextIs (step (sample [.read 0x0020, .read 0x0020])) (fun t => nextIs (step t) fun u => u.response == some 3) = true := by
  decide

/-- A read-only register and a read-only buffer, first and last word. -/
theorem witness_ReadOnlyWriteIsIgnored : (sample [.write 0x0038 1]).events = .write 0x0038 1 :: [] ∧
    locate (sample []).params 0x0038 = some (.reg .oklen) ∧ locate (sample []).params 0x000C = some (.reg .id) ∧
    locate (sample []).params 0x00E0 = some (.buf .uval 0) ∧ locate (sample []).params 0x015C = some (.buf .padout 28) := by
  decide

theorem witness_BusyWriteRaisesBusy : (running .nop [.write 0x0000 0]).events = .write 0x0000 0 :: [] ∧
    (running .nop []).busy = true ∧ locate (running .nop []).params 0x0000 = some (.reg .cmd) ∧
    (Location.reg .cmd).readOnly = false ∧ Location.reg .cmd ≠ .reg .status ∧ Location.reg .cmd ≠ .reg .ctrl ∧
    locate (running .nop []).params 0x1FFC = some (.buf .msg 0xFFC) ∧ (Location.buf .msg 0xFFC).readOnly = false := by decide

theorem witness_StatusWriteClearsFlags : (running .nop [.write 0x0004 6]).events = .write 0x0004 6 :: [] := by decide

theorem witness_CtrlWriteStoresTheEnables : (sample [.write 0x0008 0xFFFFFFFD]).events = .write 0x0008 0xFFFFFFFD :: [] := by
  decide

/-- Each of the nine operand registers. -/
theorem witness_OperandWriteReadsBack : (sample [.write 0x0040 0xFFFFFFFF]).busy = false ∧
    ([(0x0020, Reg.mlen), (0x0024, .klen), (0x0028, .upwlen), (0x002C, .opwlen), (0x0030, .fidlen), (0x0034, .fklen),
      (0x003C, .perm), (0x0040, .objnum), (0x0044, .gennum)] : List (PortAddr × Reg)).all
      (fun p => locate (sample []).params p.1 = some (.reg p.2)) = true := by decide

theorem witness_BufferWriteStoresFourBytes : (sample [.write 0x1FFC 5]).events = .write 0x1FFC 5 :: [] ∧
    (sample []).busy = false ∧ locate (sample []).params 0x1FFC = some (.buf .msg 0xFFC) ∧ Buf.msg.readOnly = false := by
  decide

/-- The word written and read, and another word all of whose bytes were written. -/
theorem witness_BufferWordReadsBack :
    nextIs (step (sample [.write 0x1000 5, .read 0x1000])) (fun t => nextIs (step t) fun u => u.response == some 5) = true ∧
    nextIs (step (sample [.write 0x1000 5, .read 0x0300]))
      (fun t => nextIs (step t) fun u => u.response == some 0xEFBEADDE) = true ∧
    locate (sample []).params 0x1000 = some (.buf .msg 0) ∧ locate (sample []).params 0x0300 = some (.buf .fid 0) ∧
    Buf.msg.readOnly = false ∧ ([0, 1, 2, 3] : List Nat).all (fun n => ((sample []).cell (0x0300 + 0 + n)).isSome) = true := by
  decide

theorem witness_ResetEventFromAnyState : (running .digest [.reset]).events = .reset :: [] := by decide

theorem witness_BusyTransactionsLeaveTheCommandAlone : (running .digest [.write 0x0020 9]).events = .write 0x0020 9 :: [] ∧
    (running .digest []).busy = true ∧ (running .digest [.read 0x0020]).events = .read 0x0020 :: [] := by decide

/-- `DONE` rises at a completion, `BUSY` at an acceptance. -/
theorem witness_OnlyCommandsRaiseDoneAndBusy :
    (running .nop []).done = false ∧ nextIs (step (running .nop [])) (fun t => t.done) = true ∧
    (sample [.write 0x0000 0]).busy = false ∧ nextIs (step (sample [.write 0x0000 0])) (fun t => t.busy) = true := by decide

/-- `CVALID` rises at `RC4_INIT`, falls at `DERIVE_USER` and at reset; the cipher state changes at `RC4_PROC`. -/
theorem witness_OnlyCipherCommandsTouchTheCipher :
    nextIs (step { running .rc4Init [] with cvalid := false }) (fun t => t.cvalid) = true ∧
    (running .deriveUser []).cvalid = true ∧ nextIs (step (running .deriveUser [])) (fun t => !t.cvalid) = true ∧
    (sample [.reset]).cvalid = true ∧ nextIs (step (sample [.reset])) (fun t => !t.cvalid) = true ∧
    nextIs (step (running .rc4Proc [])) (fun t => t.cipher.i != (sample []).cipher.i) = true := by decide +kernel

/-- A second error is not recorded, and a write of 4 to `STATUS` clears the first. -/
theorem witness_FirstErrorIsKept :
    nextIs (step { sample [.write 0x0000 0x05] with err := true, errcode := 6 }) (fun t => t.err && t.errcode == 6) = true ∧
    nextIs (step { sample [.write 0x0004 4] with err := true, errcode := 6 }) (fun t => !t.err && t.errcode == 0) = true := by
  decide

/-- Two different states that agree on everything specified, one of them meeting the invariant. -/
theorem witness_UnspecifiedEngineStateIsNeverObserved : (sample []).Inv ∧
    (sample []).specified = ({ sample [] with pending := 7 } : State).specified ∧
    (sample []).pending ≠ ({ sample [] with pending := 7 } : State).pending :=
  ⟨witness_inv_idle [], rfl, by decide⟩

theorem witness_EncObjTwiceRestoresTheMessage : (sample []).busy = false ∧ (sample []).submissionError .encObj = none ∧
    (∀ k, k < (sample []).fklen.toNat → ((sample []).cell (0x0100 + k)).isSome = true) ∧
    (∀ k, k < (sample []).mlen.toNat → ((sample []).cell (0x1000 + k)).isSome = true) := by
  have h : (∀ k, k < 5 → ((sample []).cell (0x0100 + k)).isSome = true) ∧
      (∀ k, k < 3 → ((sample []).cell (0x1000 + k)).isSome = true) := by decide
  exact ⟨by decide, by decide, h.1, h.2⟩

end Sys2Proof.Tests
end

section
/-! Every event keeps the invariant of the machine, and reset meets it (`State.Inv`). -/

namespace Sys2Proof.Machine

/-! ### The events of a step -/

/-- A read keeps the invariant: it raises an error at most (R85). -/
theorem inv_hostRead {s : State} (h : s.Inv) (a : PortAddr) : (hostRead a s).Inv := by
  rcases hostRead_cases a s with ⟨_, e⟩ | ⟨_, _, _, e⟩ | ⟨_, _, _, _, e⟩ <;> rw [e]
  case inl => exact inv_answer (inv_raise h .addr) 0
  case inr.inl => exact inv_answer h _
  case inr.inr => exact inv_nextDraw (inv_answer h _)

/-- A host write of a mapped buffer word keeps the invariant: all four bytes lie in the buffer (R83, R84). -/
theorem inv_storeWord {s : State} (h : s.Inv) (hb : s.busy = false) {a : PortAddr} {b : Buf} {k : Nat}
    (hl : locate s.params a = some (.buf b k)) (v : Word) : (s.store (b.base + k) (bytesLe v.toNat 4)).Inv :=
  inv_store h hb _ _ fun _ hn => bufferAddress_word h.paramsLegal hl (by simpa using hn)

/-- A write keeps the invariant, whatever it brings about (R86, R260). -/
theorem inv_hostWrite {s t : State} (h : s.Inv) {a : PortAddr} {v : Word} (hw : hostWrite a v s = .next t) : t.Inv := by
  rcases hostWrite_next hw with ⟨e, rfl⟩ | ⟨_, rfl⟩ | rfl | rfl | ⟨r, hb, rfl⟩ | ⟨b, k, hb, hl, _, rfl⟩ |
    ⟨i, _, _, _, hc, rfl⟩
  · exact inv_raise h e
  · exact inv_writeStatus h v
  · exact inv_writeCtrl h v
  · exact h
  · exact inv_writeOperand h hb r v
  · exact inv_storeWord h hb hl v
  · exact inv_accept h hc

/-- While busy the command in `PENDING` passes its checks: it is the one `CMD` names, and that one was checked at its
acceptance (R56, R88, R285). -/
theorem State.Inv.pendingChecked {s : State} (h : s.Inv) (hb : s.busy = true) {i : Instr}
    (hd : decode s.pending = .ok i) : s.submissionError i = none :=
  h.busyChecked hb i (h.busyPending hb ▸ hd)

/-- The completion of the command in execution keeps the invariant (R263). -/
theorem inv_completePending {s : State} (h : s.Inv) (hb : s.busy = true) {i : Instr}
    (hd : decode s.pending = .ok i) : (completion i s).finish.Inv :=
  inv_finish h (h.pendingChecked hb hd)

/-- Settles O51, by the cases of `step_next`: the event is the turn of an idle core, a completion, a read, a reset or a
write. -/
theorem stepKeepsTheInvariant : Obligations.StepKeepsTheInvariant := by
  intro s t h hs
  rcases step_next hs with ⟨rest, _, _, rfl⟩ | ⟨i, rest, _, hb, hd, rfl⟩ | ⟨a, rest, _, rfl⟩ | ⟨rest, _, rfl⟩ |
    ⟨a, v, rest, _, hw⟩
  · exact inv_turn h rest
  · exact inv_completePending (inv_turn h rest) hb hd
  · exact inv_hostRead (inv_turn h rest) a
  · exact inv_resetEvent (inv_turn h rest)
  · exact inv_hostWrite (inv_nextDraw (inv_turn h rest)) hw

/-! ### Reset -/

/-- The default parameters are legal (R9). -/
theorem defaultParams_wf : defaultParams.wf := by decide

/-- Every register but the four of identification reads 0 right after reset (R60). -/
theorem register_reset {r : Reg} (h1 : r ≠ .id) (h2 : r ≠ .proto) (h3 : r ≠ .cap0) (h4 : r ≠ .cap1) :
    State.reset.register r = 0 := by
  cases r
  case id => exact absurd rfl h1
  case proto => exact absurd rfl h2
  case cap0 => exact absurd rfl h3
  case cap1 => exact absurd rfl h4
  all_goals rfl

/-- Settles O48: the fixed state `State.reset`, read field by field and register by register. -/
theorem resetValues : Obligations.ResetValues :=
  ⟨rfl, rfl, rfl, rfl, rfl, rfl, fun _ h1 h2 h3 h4 => register_reset h1 h2 h3 h4⟩

/-- Settles O50: `CMD` holds the word of `NOP`, memory lists nothing, and the clauses about `BUSY` and `CVALID` are met
since both are 0. -/
theorem resetMeetsTheInvariant : Obligations.ResetMeetsTheInvariant where
  paramsLegal := defaultParams_wf
  memCanonical := Memory.wf_nil
  memMapped _ hc := absurd hc List.not_mem_nil
  codeLegal := Nat.zero_le _
  codeOfFlag := ⟨fun _ => rfl, fun _ => rfl⟩
  cmdLegal := ⟨.nop, decode_encode .nop⟩
  okeyLength := .inl rfl
  busyPending hb := absurd hb Bool.false_ne_true
  busyNotDone hb := absurd hb Bool.false_ne_true
  busyChecked hb := absurd hb Bool.false_ne_true
  cipherKeyed hv := absurd hv Bool.false_ne_true

end Sys2Proof.Machine
end

section
/-! The unspecified engine state is never observed: a step depends on the specified parts of a state alone. -/

namespace Sys2Proof.Machine

/-! ### The specified part of an outcome -/

/-- What of an outcome is specified. -/
def specifiedOutcome : Result → Result
  | .next s => .next s.specified
  | .fault r => .fault r
  | .refused r => .refused r

/-- Agreeing on everything specified is having the same specified part. -/
theorem sameSpecified_iff (x y : Result) : sameSpecified x y ↔ specifiedOutcome x = specifiedOutcome y := by
  cases x <;> cases y <;> simp [sameSpecified, specifiedOutcome]

/-- An operation that commutes with dropping the unspecified parts depends on the specified ones alone. -/
theorem specifiedOutcome_next {f : State → State} (hf : ∀ s, (f s).specified = f s.specified) (s : State) :
    specifiedOutcome (.next (f s)) = specifiedOutcome (.next (f s.specified)) :=
  congrArg Host.Outcome.next (by rw [hf, hf, specified_idem])

theorem specified_busy (s : State) : s.specified.busy = s.busy := rfl

theorem specified_params (s : State) : s.specified.params = s.params := rfl

theorem specified_events (s : State) : s.specified.events = s.events := rfl

theorem specified_pending {s : State} (h : s.busy = true) : s.specified.pending = s.pending := by
  simp [State.specified, h]

theorem specified_writeCtrl (s : State) (v : Word) : (s.writeCtrl v).specified = s.specified.writeCtrl v := rfl

theorem specified_store (s : State) (a : Nat) (bs : List Byte) :
    (s.store a bs).specified = s.specified.store a bs := rfl

/-- The checks look at specified parts only (R285). -/
theorem submissionError_specified (s : State) (i : Instr) : s.specified.submissionError i = s.submissionError i :=
  submissionError_congr rfl rfl rfl rfl rfl rfl i

/-! ### The one command that reads `S`, `i`, `j` runs only while they are specified -/

/-- `RC4_PROC` is in execution only with a cipher state that may be continued (R285). -/
def State.cipherReady (s : State) : Prop :=
  s.busy = true → decode s.pending = .ok .rc4Proc → s.cvalid = true

/-- `RC4_PROC` passes its checks only with `CVALID = 1` (R285). -/
theorem cvalid_of_rc4Proc_checked {s : State} (h : s.submissionError .rc4Proc = none) : s.cvalid = true := by
  have hn : s.noCipherError = none := (Option.or_eq_none_iff.1 h).2
  by_contra hc
  rw [State.noCipherError, if_neg hc] at hn
  cases hn

theorem State.Inv.cipherReady {s : State} (h : s.Inv) : s.cipherReady := fun hb hd =>
  cvalid_of_rc4Proc_checked (h.pendingChecked hb hd)

/-- Whether the cipher is ready is itself specified. -/
theorem cipherReady_specified (s : State) : s.specified.cipherReady ↔ s.cipherReady := by
  refine forall_congr' fun hb => ?_
  rw [specified_pending (show s.busy = true from hb)]
  rfl

/-! ### One event at a time -/

/-- The core's turn depends on the specified parts alone (R263, R299). -/
theorem specified_coreTurn {s : State} (h : s.cipherReady) :
    specifiedOutcome (coreTurn s) = specifiedOutcome (coreTurn s.specified) := by
  unfold coreTurn
  rw [specified_busy]
  split
  case isFalse => exact specifiedOutcome_next (f := id) (fun _ => rfl) s
  case isTrue hb =>
    rw [specified_pending hb]
    cases hd : decode s.pending with
    | error e => rfl
    | ok i =>
      dsimp only
      rw [exec_eq_runCommand, exec_eq_runCommand, runCommand_busy hb, runCommand_busy (by rwa [specified_busy])]
      refine congrArg Host.Outcome.next (specified_finish ?_)
      rintro rfl
      exact h hb hd

/-- A submission while idle depends on the specified parts alone (R261, R262). -/
theorem specified_exec_idle (i : Instr) {s : State} (hb : s.busy = false) :
    specifiedOutcome (exec i s) = specifiedOutcome (exec i s.specified) := by
  have hb' : s.specified.busy = false := hb
  rw [exec_eq_runCommand, exec_eq_runCommand]
  cases hc : s.submissionError i with
  | some e =>
    rw [runCommand_rejects hb hc, runCommand_rejects hb' ((submissionError_specified s i).trans hc)]
    exact specifiedOutcome_next (specified_raise · e) s
  | none =>
    rw [runCommand_accepts hb hc, runCommand_accepts hb' ((submissionError_specified s i).trans hc)]
    exact specifiedOutcome_next (specified_accept · _) s

/-- A word written to `CMD` while idle (R260). -/
theorem specified_submit (w : Word) {s : State} (hb : s.busy = false) :
    specifiedOutcome (submit w s) = specifiedOutcome (submit w s.specified) := by
  unfold submit
  cases decode w with
  | error e => exact specifiedOutcome_next (specified_raise · .opcode) s
  | ok i => exact specified_exec_idle i hb

/-- An idle write of a register other than `CMD` writes it as an operand register (R86). -/
theorem writeIdle_reg {r : Reg} (h : r ≠ .cmd) (v : Word) (s : State) :
    writeIdle (.reg r) v s = .next (s.writeOperand r v) := by
  cases r
  case cmd => exact absurd rfl h
  all_goals rfl

/-- An idle write depends on the specified parts alone (R86). -/
theorem specified_writeIdle (loc : Location) (v : Word) {s : State} (hb : s.busy = false) :
    specifiedOutcome (writeIdle loc v s) = specifiedOutcome (writeIdle loc v s.specified) := by
  cases loc with
  | reg r =>
    by_cases hr : r = .cmd
    · subst hr
      exact specified_submit v hb
    · rw [writeIdle_reg hr, writeIdle_reg hr]
      exact specifiedOutcome_next (specified_writeOperand · r v) s
  | buf b k => exact specifiedOutcome_next (specified_store · (b.base + k) (bytesLe v.toNat 4)) s

/-- A write depends on the specified parts alone (R86), by its lines in their order. -/
theorem specified_hostWrite (a : PortAddr) (v : Word) (s : State) :
    specifiedOutcome (hostWrite a v s) = specifiedOutcome (hostWrite a v s.specified) := by
  unfold hostWrite
  rw [specified_params, specified_busy]
  cases locate s.params a with
  | none => exact specifiedOutcome_next (specified_raise · .addr) s
  | some loc =>
    dsimp only
    split
    · exact specifiedOutcome_next (specified_writeStatus · v) s
    split
    · exact specifiedOutcome_next (specified_writeCtrl · v) s
    split
    · exact specifiedOutcome_next (f := id) (fun _ => rfl) s
    split
    case isTrue => exact specifiedOutcome_next (specified_raise · .busy) s
    case isFalse hb => exact specified_writeIdle loc v (Bool.eq_false_iff.2 hb)

/-- The reset event draws the unspecified parts anew (R320). -/
theorem specified_resetEvent (s : State) : s.resetEvent.specified = s.specified.resetEvent.specified := rfl

/-- A step depends on the specified parts alone. -/
theorem specified_step {s : State} (h : s.cipherReady) :
    specifiedOutcome (step s) = specifiedOutcome (step s.specified) := by
  cases he : s.events with
  | nil =>
    rw [step_nil he, step_nil ((specified_events s).trans he), ← specified_turn]
    exact specified_coreTurn (s := s.turn []) h
  | cons e rest =>
    have he' : s.specified.events = e :: rest := he
    cases e with
    | core =>
      rw [step_core he, step_core he', ← specified_turn]
      exact specified_coreTurn (s := s.turn rest) h
    | read a =>
      rw [step_read he, step_read he', ← specified_turn]
      exact congrArg Host.Outcome.next (specified_hostRead a (s.turn rest))
    | write a v =>
      rw [step_write he, step_write he', ← specified_turn, ← specified_nextDraw]
      exact specified_hostWrite a v _
    | reset =>
      rw [step_reset he, step_reset he', ← specified_turn]
      exact congrArg Host.Outcome.next (specified_resetEvent (s.turn rest))

/-- Settles O58: both steps are, in everything specified, the step of the one state their specified parts make. -/
theorem unspecifiedEngineStateIsNeverObserved : Obligations.UnspecifiedEngineStateIsNeverObserved := by
  intro s u hs hsu
  have hu : u.cipherReady := by
    rw [← cipherReady_specified, ← hsu, cipherReady_specified]
    exact hs.cipherReady
  rw [sameSpecified_iff, specified_step hs.cipherReady, specified_step hu, hsu]

end Sys2Proof.Machine
end

section
/-! The finer model of the sequencer ends where the one-event completion ends (45_sequencer.md R266, R267). -/

namespace Sys2Proof.Machine

/-! ### The final step, from the value the temporaries hold -/

/-- `DERIVE_OWNER` stores the data temporary. -/
theorem scheduleFinish_deriveOwner {s : State} {q : Sequencer}
    (h : q.dataTmp.toList = deriveOwnerValue s.ownerPassword s.userPassword) :
    scheduleFinish .deriveOwner { s with seq := q } = (completeDeriveOwner s).finish := by
  unfold scheduleFinish
  dsimp only
  rw [h]
  rfl

/-- `DERIVE_FKEY` stores the digest temporary. -/
theorem scheduleFinish_deriveFkey {s : State} {q : Sequencer}
    (h : q.digestTmp.toList = deriveFileKey s.userPassword s.ownerValue s.perm s.fileId) :
    scheduleFinish .deriveFkey { s with seq := q } = (completeDeriveFkey s).finish := by
  unfold scheduleFinish
  dsimp only
  rw [h]
  rfl

/-- `DERIVE_USER` stores the first half of the data temporary. -/
theorem scheduleFinish_deriveUser {s : State} {q : Sequencer}
    (h : q.dataTmp.toList.take 16 = userValueHead s.fileKey s.fileId) :
    scheduleFinish .deriveUser { s with seq := q } = (completeDeriveUser s).finish := by
  unfold scheduleFinish
  dsimp only
  rw [h]
  rfl

/-! ### The whole schedule -/

theorem runSchedule_deriveOwner (s : State) : runSchedule .deriveOwner s = (completeDeriveOwner s).finish := by
  obtain ⟨q, e, _, _, hq⟩ := schedule_deriveOwner_passes s 20
  rw [runSchedule, show scheduleLength .deriveOwner = 20 + 51 from rfl, e]
  exact scheduleFinish_deriveOwner hq

/-- The file key is all 16 bytes of the last digest (R212). -/
theorem runSchedule_deriveFkey (s : State) : runSchedule .deriveFkey s = (completeDeriveFkey s).finish := by
  obtain ⟨q, e, _, hq⟩ := schedule_deriveFkey s 50
  have hk : q.digestTmp.toList = deriveFileKey s.userPassword s.ownerValue s.perm s.fileId := by
    rw [hq, deriveFileKey, List.take_of_length_le (by rw [length_redigest _ _ (length_md5 _)])]
  rw [runSchedule, show scheduleLength .deriveFkey = 50 + 1 from rfl, e]
  exact scheduleFinish_deriveFkey hk

theorem runSchedule_deriveUser (s : State) : runSchedule .deriveUser s = (completeDeriveUser s).finish := by
  obtain ⟨q, e, _, hq⟩ := schedule_deriveUser s 20
  rw [runSchedule, show scheduleLength .deriveUser = 20 + 1 from rfl, e]
  exact scheduleFinish_deriveUser hq

/-- Every schedule ends in the completion; the empty ones, whose final step is all of it, whatever the sequencer held. -/
theorem runSchedule_eq_finish (i : Instr) (s : State) : runSchedule i s = (completion i s).finish := by
  have empty : (completion i s.scheduleStart).finish = (completion i s).finish := finish_completion_seq i s _
  cases i with
  | deriveOwner => exact runSchedule_deriveOwner s
  | deriveFkey => exact runSchedule_deriveFkey s
  | deriveUser => exact runSchedule_deriveUser s
  | nop | digest | rc4Init | rc4Proc | pad | objkey | encObj => exact empty

/-- Settles O60: while busy `exec` completes the command, and so does its schedule. -/
theorem scheduleReachesTheCompletion : Obligations.ScheduleReachesTheCompletion := by
  intro i s hb
  rw [runSchedule_eq_finish, exec_eq_runCommand, runCommand_busy hb]

end Sys2Proof.Machine
end

section
/-! The cipher table stays a permutation of 0..255 (10_state.md R54, 41_cipher.md R171, R172). -/

namespace Sys2Proof.Machine

theorem getElem_identityTable {n : Nat} (h : n < 256) : identityTable[n] = BitVec.ofNat 8 n :=
  Vector.getElem_ofFn h

/-- Entry `n` of a table, addressed by a byte. -/
theorem tableAt_ofNat (S : Vector Byte 256) {n : Nat} (h : n < 256) : tableAt S (BitVec.ofNat 8 n) = S[n] := by
  simp [tableAt, Nat.mod_eq_of_lt h]

/-! The entries of a table after a swap (R171, R172) -/

theorem getElem_swapEntries_left (S : Vector Byte 256) {x : Byte} (y : Byte) {n : Nat} (h : n < 256) (hx : x.toNat = n) :
    (swapEntries S x y)[n] = S[y.toNat]'y.isLt := by
  subst hx
  exact Vector.getElem_swap_left ..

theorem getElem_swapEntries_right (S : Vector Byte 256) {x : Byte} (y : Byte) {n : Nat} (h : n < 256) (hx : x.toNat = n) :
    (swapEntries S x y)[y.toNat]'y.isLt = S[n] := by
  subst hx
  exact Vector.getElem_swap_right ..

theorem getElem_swapEntries_other (S : Vector Byte 256) {x y : Byte} {m : Nat} (h : m < 256) (hx : m ≠ x.toNat)
    (hy : m ≠ y.toNat) : (swapEntries S x y)[m] = S[m] :=
  Vector.getElem_swap_of_ne hx hy

/-- Mixing step `n` swaps entry `n` with its partner, and the partner is carried on (R171). -/
theorem mixStep_eq {key : List Byte} {x : Byte} {n : Nat} (h : n < 256) (hx : key[n % key.length]? = some x)
    (S : Vector Byte 256) (q : Byte) :
    mixStep key (S, q) n = (swapEntries S (BitVec.ofNat 8 n) (q + S[n] + x), q + S[n] + x) := by
  simp only [mixStep, tableAt_ofNat S h, List.getD_eq_getElem?_getD, hx, Option.getD_some]

/-- The table is a permutation after any number of mixing steps. -/
theorem mixSteps_perm (key : List Byte) (n : Nat) :
    isPermutation ((List.range n).foldl (mixStep key) (identityTable, 0)).1 := by
  induction n with
  | zero => exact identityTable_perm
  | succ n ih =>
    rw [List.range_succ, List.foldl_append]
    exact mixStep_perm n ih

/-- Settles O23: a mixing step is a swap, and a swap leaves a permutation, in the key schedule and in processing. -/
theorem cipherTableStaysAPermutation : Obligations.CipherTableStaysAPermutation := by
  refine ⟨fun _ h => getElem_identityTable h, fun key S q x n h hx => ?_, mixSteps_perm,
    fun key => ⟨rfl, keySchedule_perm key, rfl, rfl⟩, fun _ data h => cipherProcess_perm data h⟩
  have hn : (BitVec.ofNat 8 n).toNat = n := Nat.mod_eq_of_lt h
  exact ⟨_, _, mixStep_eq h hx S q, rfl, getElem_swapEntries_left S _ h hn, getElem_swapEntries_right S _ h hn,
    fun m hm h1 h2 => getElem_swapEntries_other S hm (by rwa [hn]) h2⟩

end Sys2Proof.Machine
end

section
/-! What a step can change of `DONE`, `BUSY`, `CVALID` and the cipher state (10_state.md R36, R55). -/

namespace Sys2Proof.Machine

/-! ### A word that decodes is its command's word (30_encoding.md R111, R118) -/

/-- The fields of a word the case list of R118 decodes. -/
theorem fields_of_plainCommand {op : Byte} {i : Instr} (h : plainCommand op = .ok i) :
    opField (encode i) = op ∧ selField (encode i) = 0 := by
  unfold plainCommand at h
  repeat' split at h
  all_goals cases h
  all_goals subst op; exact ⟨rfl, rfl⟩

/-- The selector of a `PAD` word (R112). -/
theorem selField_pad (b : BitVec 1) : selField (encode (.pad (selOfBit b))) = b := by
  revert b
  decide

theorem opField_pad (sel : PasswordSel) : opField (encode (.pad sel)) = 0x04 := by cases sel <;> rfl

theorem rsvField_encode (i : Instr) : rsvField (encode i) = 0 := by
  cases i
  case pad sel => cases sel <;> rfl
  all_goals rfl

/-- Only the command's own word decodes to it. -/
theorem encode_of_decode {w : Word} {i : Instr} (h : decode w = .ok i) : encode i = w := by
  unfold decode at h
  split at h
  · cases h
  · rename_i hrsv
    have hrsv' : rsvField (encode i) = rsvField w := (rsvField_encode i).trans (not_not.1 hrsv).symm
    split at h
    · rename_i hop
      cases h
      exact word_eq_of_fields ((opField_pad _).trans hop.symm) (selField_pad _) hrsv'
    · split at h
      · cases h
      · rename_i hsel
        obtain ⟨hop, hs⟩ := fields_of_plainCommand h
        exact word_eq_of_fields hop (hs.trans (not_not.1 hsel).symm) hrsv'

/-! ### Transactions -/

/-- A read leaves `BUSY`, `DONE`, `CVALID` and the cipher state (R85). -/
theorem hostRead_frame (a : PortAddr) (s : State) : (hostRead a s).busy = s.busy ∧ (hostRead a s).done = s.done ∧
    (hostRead a s).cvalid = s.cvalid ∧ (hostRead a s).cipher = s.cipher := by
  rcases hostRead_cases a s with ⟨_, e⟩ | ⟨_, _, _, e⟩ | ⟨_, _, _, _, e⟩ <;> rw [e] <;> simp

/-- A write leaves `CVALID` and the cipher state, and raises no `DONE` (R86). -/
theorem hostWrite_frame {a : PortAddr} {v : Word} {s t : State} (h : hostWrite a v s = .next t) :
    t.cvalid = s.cvalid ∧ t.cipher = s.cipher ∧ (t.done = true → s.done = true) := by
  rcases hostWrite_next h with ⟨_, rfl⟩ | ⟨_, rfl⟩ | rfl | rfl | ⟨_, _, rfl⟩ | ⟨_, _, _, _, _, rfl⟩ |
    ⟨_, _, _, _, _, rfl⟩ <;> simp

/-- A write leaves `BUSY`, but for one to `CMD` of a command whose checks pass, which is accepted (R262). -/
theorem hostWrite_busy {a : PortAddr} {v : Word} {s t : State} (h : hostWrite a v s = .next t) :
    t.busy = s.busy ∨ (a = 0x0000 ∧ ∃ i, decode v = .ok i ∧ s.submissionError i = none ∧ t = s.accept v) := by
  rcases hostWrite_next h with ⟨_, rfl⟩ | ⟨_, rfl⟩ | rfl | rfl | ⟨_, _, rfl⟩ | ⟨_, _, _, _, _, rfl⟩ |
    ⟨i, ha, _, hd, hc, rfl⟩
  case inr.inr.inr.inr.inr.inr => exact .inr ⟨ha, i, hd, hc, by rw [encode_of_decode hd]⟩
  all_goals exact .inl (by simp)

/-! ### `DONE` and `BUSY` -/

/-- The turn of the core is its own event, or no event is left. -/
theorem State.coreNext.event {s : State} {rest : List Event} (h : s.coreNext rest) :
    s.events = [] ∨ ∃ rest, s.events = .core :: rest :=
  h.elim (fun e => .inr ⟨rest, e⟩) fun e => .inl e.1

/-- `DONE` rises only at a completion (R36, R263). -/
theorem step_done_rises {s t : State} (h : step s = .next t) (hs : s.done = false) (ht : t.done = true) :
    s.busy = true ∧ t.busy = false ∧ (s.events = [] ∨ ∃ rest, s.events = .core :: rest) := by
  have changed : t.done ≠ s.done := by simp [hs, ht]
  rcases step_next h with ⟨rest, _, _, rfl⟩ | ⟨i, rest, hc, hb, _, rfl⟩ | ⟨a, rest, _, rfl⟩ | ⟨rest, _, rfl⟩ |
    ⟨a, v, rest, _, hw⟩
  · exact absurd rfl changed
  · exact ⟨hb, rfl, hc.event⟩
  · exact absurd (hostRead_frame a (s.turn rest)).2.1 changed
  · cases ht
  · exact absurd ((hostWrite_frame hw).2.2 ht) (by simp [hs])

/-- `BUSY` rises only at an acceptance (R36, R262). -/
theorem step_busy_rises {s t : State} (h : step s = .next t) (hs : s.busy = false) (ht : t.busy = true) :
    ∃ w i rest, s.events = .write 0x0000 w :: rest ∧ decode w = .ok i ∧ s.submissionError i = none ∧
      t.cmd = w ∧ t.pending = w ∧ t.done = false := by
  have changed : t.busy ≠ s.busy := by simp [hs, ht]
  rcases step_next h with ⟨rest, _, _, rfl⟩ | ⟨i, rest, _, hb, _, rfl⟩ | ⟨a, rest, _, rfl⟩ | ⟨rest, _, rfl⟩ |
    ⟨a, v, rest, he, hw⟩
  · exact absurd rfl changed
  · cases ht
  · exact absurd (hostRead_frame a (s.turn rest)).1 changed
  · cases ht
  · rcases hostWrite_busy hw with e | ⟨rfl, i, hd, hc, rfl⟩
    · exact absurd e changed
    · exact ⟨v, i, rest, he, hd, (submissionError_congr rfl rfl rfl rfl rfl rfl i).trans hc, rfl, rfl, rfl⟩

/-- Settles O55, from every way a step can go. -/
theorem onlyCommandsRaiseDoneAndBusy : Obligations.OnlyCommandsRaiseDoneAndBusy := fun _ _ h =>
  ⟨step_done_rises h, step_busy_rises h⟩

/-! ### `CVALID` and the cipher state -/

/-- Everything a step can leave of `CVALID` and the cipher state: both as they were; those of the reset event; those of a
completion (R55). -/
theorem step_cipher {s t : State} (h : step s = .next t) :
    (t.cvalid = s.cvalid ∧ t.cipher = s.cipher) ∨
    ((∃ rest, s.events = .reset :: rest) ∧ t.cvalid = false) ∨
    (∃ i rest, completes s t i ∧ t.cvalid = completionCvalid (s.turn rest) i ∧
      t.cipher = completionCipher (s.turn rest) i) := by
  rcases step_next h with ⟨rest, _, _, rfl⟩ | ⟨i, rest, hc, hb, hd, rfl⟩ | ⟨a, rest, _, rfl⟩ | ⟨rest, he, rfl⟩ |
    ⟨a, v, rest, _, hw⟩
  · exact .inl ⟨rfl, rfl⟩
  · exact .inr (.inr ⟨i, rest, ⟨hb, hd, hc.event, rfl⟩, completion_cvalid i _, completion_cipher i _⟩)
  · obtain ⟨_, _, hv, hci⟩ := hostRead_frame a (s.turn rest)
    exact .inl ⟨hv, hci⟩
  · exact .inr (.inl ⟨⟨rest, he⟩, rfl⟩)
  · obtain ⟨hv, hci, _⟩ := hostWrite_frame hw
    exact .inl ⟨hv, hci⟩

/-- The commands that set `CVALID` (R173, R243). -/
theorem completionCvalid_rises {s : State} {i : Instr} (hs : s.cvalid = false) (h : completionCvalid s i = true) :
    i = .rc4Init ∨ i = .encObj := by
  cases i
  case rc4Init => exact .inl rfl
  case encObj => exact .inr rfl
  all_goals simp [completionCvalid, hs] at h

/-- The commands that clear `CVALID` (R216, R218). -/
theorem completionCvalid_falls {s : State} {i : Instr} (hs : s.cvalid = true) (h : completionCvalid s i = false) :
    i = .deriveOwner ∨ i = .deriveUser := by
  cases i
  case deriveOwner => exact .inl rfl
  case deriveUser => exact .inr rfl
  all_goals simp [completionCvalid, hs] at h

/-- The commands that write `S`, `i`, `j` (R61). -/
theorem completionCipher_changes {s : State} {i : Instr} (h : completionCipher s i ≠ s.cipher) :
    i ∈ [Instr.rc4Init, .rc4Proc, .encObj, .deriveOwner, .deriveUser] := by
  cases i
  case nop | digest | pad | deriveFkey | objkey => exact absurd rfl h
  all_goals simp

/-- Settles O56, from everything a step can leave of `CVALID` and the cipher state. -/
theorem onlyCipherCommandsTouchTheCipher : Obligations.OnlyCipherCommandsTouchTheCipher := by
  intro s t h
  rcases step_cipher h with ⟨hv, hci⟩ | ⟨hr, hv⟩ | ⟨i, rest, hcomp, hv, hci⟩
  · exact ⟨fun ht hs => by simp [← hv, ht] at hs, fun ht hs => by simp [← hv, ht] at hs, fun hne => absurd hci hne⟩
  · exact ⟨fun ht => absurd ht (by simp [hv]), fun _ _ => .inl hr, fun _ => .inl hr⟩
  · refine ⟨fun ht hs => ?_, fun ht hs => .inr ?_, fun hne => .inr ⟨i, hcomp, ?_⟩⟩
    · rcases completionCvalid_rises (s := s.turn rest) hs (hv ▸ ht) with rfl | rfl
      · exact .inl hcomp
      · exact .inr hcomp
    · rcases completionCvalid_falls (s := s.turn rest) hs (hv ▸ ht) with rfl | rfl
      · exact .inl hcomp
      · exact .inr hcomp
    · exact completionCipher_changes (s := s.turn rest) (hci ▸ hne)

end Sys2Proof.Machine
end

section
/-! The status and control words, and the transactions on them (10_state.md R36, R37, R59, 20_memory.md R85, R86). -/

namespace Sys2Proof.Machine

/-! ### The words, bit by bit -/

/-- The bits of `STATUS` (R36). -/
theorem getLsbD_statusWord (s : State) (n : Nat) : s.statusWord.getLsbD n =
    if n = 0 then s.busy else if n = 1 then s.done else if n = 2 then s.err else if n = 3 then s.cvalid
    else decide (8 ≤ n) && s.errcode.getLsbD (n - 8) := by
  change BitVec.getLsbD (w := 20 + 4 + 4 + 1 + 1 + 1 + 1) (0#20 ++ s.errcode ++ 0#4 ++ BitVec.ofBool s.cvalid
    ++ BitVec.ofBool s.err ++ BitVec.ofBool s.done ++ BitVec.ofBool s.busy) n = _
  simp only [BitVec.getLsbD_append, BitVec.getLsbD_ofBool, BitVec.getLsbD_zero, -Nat.reduceAdd]
  match n with
  | 0 | 1 | 2 | 3 | 4 | 5 | 6 | 7 => simp
  | n + 8 => simpa using BitVec.lt_of_getLsbD

/-- From bit 4 on `STATUS` holds `ERRCODE` alone (R36). -/
theorem getLsbD_statusWord_high (s : State) {n : Nat} (h : 4 ≤ n) :
    s.statusWord.getLsbD n = (decide (8 ≤ n) && s.errcode.getLsbD (n - 8)) := by
  rw [getLsbD_statusWord, if_neg (by omega), if_neg (by omega), if_neg (by omega), if_neg (by omega)]

/-- The bits of `CTRL` (R37). -/
theorem getLsbD_ctrlWord (s : State) (n : Nat) : s.ctrlWord.getLsbD n =
    if n = 0 then s.ieDone else if n = 1 then s.ieErr else false := by
  change BitVec.getLsbD (w := 30 + 1 + 1) (0#30 ++ BitVec.ofBool s.ieErr ++ BitVec.ofBool s.ieDone) n = _
  simp only [BitVec.getLsbD_append, BitVec.getLsbD_ofBool, BitVec.getLsbD_zero, -Nat.reduceAdd]
  match n with
  | 0 | 1 | n + 2 => simp

theorem statusWord_bits_7_4 (s : State) : s.statusWord.extractLsb 7 4 = 0 := by
  apply BitVec.eq_of_getLsbD_eq
  intro n hn
  have h : ¬ 8 ≤ 4 + n := by omega
  rw [BitVec.getLsbD_extractLsb, getLsbD_statusWord_high s (by omega)]
  simp [h]

theorem statusWord_bits_11_8 (s : State) : s.statusWord.extractLsb 11 8 = s.errcode := by
  apply BitVec.eq_of_getLsbD_eq
  intro n hn
  rw [BitVec.getLsbD_extractLsb, getLsbD_statusWord_high s (by omega)]
  simp [hn]

theorem statusWord_bits_31_12 (s : State) : s.statusWord.extractLsb 31 12 = 0 := by
  apply BitVec.eq_of_getLsbD_eq
  intro n hn
  have h : s.errcode.getLsbD (12 + n - 8) = false := BitVec.getLsbD_of_ge _ _ (by omega)
  rw [BitVec.getLsbD_extractLsb, getLsbD_statusWord_high s (by omega)]
  simp [h]

/-- Settles O43, field by field. -/
theorem statusWordBits : Obligations.StatusWordBits := fun s =>
  ⟨getLsbD_statusWord s 0, getLsbD_statusWord s 1, getLsbD_statusWord s 2, getLsbD_statusWord s 3,
    statusWord_bits_7_4 s, statusWord_bits_11_8 s, statusWord_bits_31_12 s⟩

/-- Settles O44: the bits of the two words are the four flags. -/
theorem irqFromStatusAndCtrl : Obligations.IrqFromStatusAndCtrl := by
  intro s
  simp [getLsbD_statusWord, getLsbD_ctrlWord, State.irq, -BitVec.getLsbD_eq_getElem]

/-! ### Writes of `STATUS` and `CTRL` -/

/-- A write of `STATUS` as one record (R36). -/
theorem writeStatus_eq (s : State) (v : Word) : s.writeStatus v =
    { s with
      done := s.done && !v.getLsbD 1, err := s.err && !v.getLsbD 2
      errcode := if v.getLsbD 2 then 0 else s.errcode } := by
  cases h1 : v.getLsbD 1 <;> cases h2 : v.getLsbD 2 <;>
    simp [State.writeStatus, h1, h2, State.clearDone, State.clearError, -BitVec.getLsbD_eq_getElem]

/-- Settles O41: the write is neither refused nor ignored, busy or not. -/
theorem statusWriteClearsFlags : Obligations.StatusWriteClearsFlags := by
  intro s rest v h
  have e : hostWrite 0x0004 v (s.turn rest).nextDraw = .next ((s.turn rest).nextDraw.writeStatus v) := rfl
  rw [step_write h, e, writeStatus_eq]
  rfl

/-- The enables are bits 0 and 1 of the word written (R37). -/
theorem ctrlWord_writeCtrl (s : State) (v : Word) : (s.writeCtrl v).ctrlWord = v &&& 3 := by
  apply BitVec.eq_of_getLsbD_eq
  intro n hn
  rw [getLsbD_ctrlWord, BitVec.getLsbD_and]
  match n with
  | 0 | 1 => simp
  | n + 2 =>
    have h3 : (3 : Word).getLsbD (n + 2) = false := by
      change Nat.testBit (2 ^ 2 - 1) (n + 2) = false
      rw [Nat.testBit_two_pow_sub_one]
      simp
    rw [h3, Bool.and_false]
    simp

/-- Settles O42: `CTRL` is written before the core looks at `BUSY`, and its word is made of the two enables alone. -/
theorem ctrlWriteStoresTheEnables : Obligations.CtrlWriteStoresTheEnables := by
  intro s rest v h
  exact ⟨_, step_write h, ctrlWord_writeCtrl _ v, rfl⟩

/-! ### Reads of the live registers -/

/-- Taking the next event leaves the registers (R94). -/
theorem register_turn (s : State) (rest : List Event) (r : Reg) : (s.turn rest).register r = s.register r := by
  cases r <;> rfl

/-- A read of a live register returns its word, busy or not (R85). -/
theorem step_read_live {s : State} {rest : List Event} {a : PortAddr} {r : Reg} (h : s.events = .read a :: rest)
    (hl : locate s.params a = some (.reg r)) (hr : r.live = true) :
    step s = .next ((s.turn rest).answer (s.register r)) := by
  rw [step_read h, hostRead, State.turn_params, hl]
  dsimp only
  rw [if_pos (show (Location.reg r).live = true from hr)]
  exact congrArg (fun w => Host.Outcome.next ((s.turn rest).answer w)) (register_turn s rest r)

/-- Settles O35: each of the six addresses holds its register for every choice of the parameters. -/
theorem liveRegistersReadAtAnyTime : Obligations.LiveRegistersReadAtAnyTime := by
  intro s rest a w hw h
  simp only [List.mem_cons, List.not_mem_nil, or_false, Prod.mk.injEq] at hw
  rcases hw with ⟨rfl, rfl⟩ | ⟨rfl, rfl⟩ | ⟨rfl, rfl⟩ | ⟨rfl, rfl⟩ | ⟨rfl, rfl⟩ | ⟨rfl, rfl⟩
  · exact step_read_live (r := .status) h rfl rfl
  · exact step_read_live (r := .ctrl) h rfl rfl
  · exact step_read_live (r := .id) h rfl rfl
  · exact step_read_live (r := .proto) h rfl rfl
  · exact step_read_live (r := .cap0) h rfl rfl
  · exact step_read_live (r := .cap1) h rfl rfl

end Sys2Proof.Machine
end

section
/-! A placed command word is the one the next step runs, and an idle write of an operand register stores it. -/

namespace Sys2Proof.Machine

/-! ### The placed command -/

/-- Placing a command's word places that word: it has 32 bits. -/
theorem withFetchWord_encode (s : State) (i : Instr) :
    s.withFetchWord 32 (encode i).toNat = s.placeCommand (encode i) := by
  rw [State.withFetchWord, Nat.mod_eq_of_lt (encode i).isLt, BitVec.ofNat_toNat, BitVec.setWidth_eq]

theorem placeCommand_idle {s : State} (hb : s.busy = false) (w : Word) :
    s.placeCommand w = { s with events := .write 0x0000 w :: s.events } := by
  simp [State.placeCommand, hb]

theorem placeCommand_busy {s : State} (hb : s.busy = true) (w : Word) :
    s.placeCommand w = { s with cmd := w, pending := w, events := .core :: s.events } := by
  simp [State.placeCommand, hb]

/-- A command's word written to `CMD` while idle runs that command (R260). -/
theorem step_write_encode {s : State} {rest : List Event} {i : Instr} (h : s.events = .write 0x0000 (encode i) :: rest)
    (hb : s.busy = false) : step s = exec i (s.turn rest).nextDraw := by
  rw [step_write h]
  refine (hostWrite_cmd_idle (s := (s.turn rest).nextDraw) hb _).trans ?_
  rw [submit, decode_encode]

/-- The core's turn while busy runs the command whose word `PENDING` holds (R263). -/
theorem step_core_encode {s : State} {rest : List Event} {i : Instr} (h : s.events = .core :: rest)
    (hb : s.busy = true) (hp : s.pending = encode i) : step s = exec i (s.turn rest) := by
  rw [step_core h, coreTurn, State.turn_busy, if_pos hb, State.turn_pending, hp, decode_encode]

/-- Settles O4: while idle the placed word is the next `CMD` write, while busy it is in `PENDING` at the core's turn. -/
theorem stepRunsPlacedCommand : Obligations.StepRunsPlacedCommand := by
  intro s i
  rw [withFetchWord_encode]
  constructor <;> intro hb
  · rw [placeCommand_idle hb]
    exact step_write_encode rfl hb
  · rw [placeCommand_busy hb]
    exact step_core_encode rfl hb rfl

/-! ### The operand registers after a write, field by field -/

theorem writeOperand_mlen (s : State) (r : Reg) (v : Word) :
    (s.writeOperand r v).mlen = if r = .mlen then v else s.mlen := by cases r <;> rfl

theorem writeOperand_klen (s : State) (r : Reg) (v : Word) :
    (s.writeOperand r v).klen = if r = .klen then v else s.klen := by cases r <;> rfl

theorem writeOperand_upwlen (s : State) (r : Reg) (v : Word) :
    (s.writeOperand r v).upwlen = if r = .upwlen then v else s.upwlen := by cases r <;> rfl

theorem writeOperand_opwlen (s : State) (r : Reg) (v : Word) :
    (s.writeOperand r v).opwlen = if r = .opwlen then v else s.opwlen := by cases r <;> rfl

theorem writeOperand_fidlen (s : State) (r : Reg) (v : Word) :
    (s.writeOperand r v).fidlen = if r = .fidlen then v else s.fidlen := by cases r <;> rfl

theorem writeOperand_fklen (s : State) (r : Reg) (v : Word) :
    (s.writeOperand r v).fklen = if r = .fklen then v else s.fklen := by cases r <;> rfl

theorem writeOperand_perm (s : State) (r : Reg) (v : Word) :
    (s.writeOperand r v).perm = if r = .perm then v else s.perm := by cases r <;> rfl

theorem writeOperand_objnum (s : State) (r : Reg) (v : Word) :
    (s.writeOperand r v).objnum = if r = .objnum then v.extractLsb 23 0 else s.objnum := by cases r <;> rfl

theorem writeOperand_gennum (s : State) (r : Reg) (v : Word) :
    (s.writeOperand r v).gennum = if r = .gennum then v.extractLsb 15 0 else s.gennum := by cases r <;> rfl

/-- A write of an operand register leaves what every other register reads as. -/
theorem register_writeOperand_other {q r : Reg} (h : r ≠ q) (s : State) (v : Word) :
    (s.writeOperand r v).register q = s.register q := by
  cases q <;> simp [State.register, State.statusWord, State.ctrlWord, writeOperand_mlen, writeOperand_klen,
    writeOperand_upwlen, writeOperand_opwlen, writeOperand_fidlen, writeOperand_fklen, writeOperand_perm,
    writeOperand_objnum, writeOperand_gennum, h]

/-- The low 24 bits of a word, which `OBJNUM` keeps (R41). -/
theorem setWidth_low24 (v : Word) : (v.extractLsb 23 0).setWidth 32 = v &&& 0x00FFFFFF := by
  have h : v.toNat &&& 16777215 = v.toNat % 16777216 := Nat.and_two_pow_sub_one_eq_mod v.toNat 24
  apply BitVec.eq_of_toNat_eq
  simpa [h] using Nat.mod_eq_of_lt (a := v.toNat % 16777216) (b := 4294967296) (by omega)

/-- The low 16 bits of a word, which `GENNUM` keeps (R41). -/
theorem setWidth_low16 (v : Word) : (v.extractLsb 15 0).setWidth 32 = v &&& 0x0000FFFF := by
  have h : v.toNat &&& 65535 = v.toNat % 65536 := Nat.and_two_pow_sub_one_eq_mod v.toNat 16
  apply BitVec.eq_of_toNat_eq
  simpa [h] using Nat.mod_eq_of_lt (a := v.toNat % 65536) (b := 4294967296) (by omega)

/-- The nine operand registers the host writes (R31 to R33, R39 to R41). -/
def operandRegisters : List Reg := [.mlen, .klen, .upwlen, .opwlen, .fidlen, .fklen, .perm, .objnum, .gennum]

/-- An operand register is no `CMD`, `STATUS` or `CTRL`, and the host may write it (R84, R86). -/
theorem operandRegisters_writable : ∀ r ∈ operandRegisters,
    r ≠ .cmd ∧ r ≠ .status ∧ r ≠ .ctrl ∧ r.readOnly = false := by decide

/-- An idle write of an operand register (R86). -/
theorem step_operand_write {s : State} {rest : List Event} {a : PortAddr} {v : Word} {r : Reg}
    (h : s.events = .write a v :: rest) (hb : s.busy = false) (hl : locate s.params a = some (.reg r))
    (hr : r ∈ operandRegisters) : step s = .next ((s.turn rest).nextDraw.writeOperand r v) := by
  obtain ⟨hcmd, hstatus, hctrl, hro⟩ := operandRegisters_writable r hr
  rw [step_write h, hostWrite, State.nextDraw_params, State.turn_params, hl]
  dsimp only
  rw [if_neg (by simpa using hstatus), if_neg (by simpa using hctrl), if_neg (by simp [Location.readOnly, hro]),
    if_neg (by simp [hb]), writeIdle_reg hcmd]

/-- The operand register written reads as the bits it keeps (R41, R86). -/
theorem register_writeOperand_same {r : Reg} (hr : r ∈ operandRegisters) (s : State) (v : Word) :
    (s.writeOperand r v).register r =
      if r = .objnum then v &&& 0x00FFFFFF else if r = .gennum then v &&& 0x0000FFFF else v := by
  simp only [operandRegisters, List.mem_cons, List.not_mem_nil, or_false] at hr
  rcases hr with rfl | rfl | rfl | rfl | rfl | rfl | rfl | rfl | rfl
  iterate 7 exact rfl
  · exact setWidth_low24 v
  · exact setWidth_low16 v

/-- Settles O45: the step is the one assignment of the operand register, with every other part framed. -/
theorem operandWriteReadsBack : Obligations.OperandWriteReadsBack := by
  intro s rest a v r h hb hl hr
  have frame : ∀ q, (s.turn rest).nextDraw.register q = s.register q := fun q => by cases q <;> rfl
  refine ⟨_, step_operand_write h hb hl hr, register_writeOperand_same hr _ v, fun q hq => ?_, fun x => ?_, ?_⟩
  · rw [register_writeOperand_other hq.symm, frame]
  · simp [State.cell]
  · simp

end Sys2Proof.Machine
end

section
/-! The address map: what is mapped, what is not, and where (20_memory.md R84, R87, R89). -/

namespace Sys2Proof.Machine

/-- The windows of the buffers end at the end of the address space (R80, R84). -/
theorem Buf.window_fits {p : Params} (hp : p.wf) (b : Buf) : b.base + b.size p ≤ 0x10000 := by
  obtain ⟨⟨_, _, _⟩, _, _, _⟩ := hp
  cases b <;> simp only [Buf.base, Buf.size] <;> omega

theorem Buf.base_aligned (b : Buf) : b.base % 4 = 0 := by cases b <;> rfl

/-- The registers stand below the buffers (R84). -/
theorem Reg.address_lt_base (r : Reg) (b : Buf) : r.address < b.base := by cases r <;> cases b <;> decide

/-- The aligned addresses that hold no register and lie in no buffer are the unmapped ones (R84, R89). -/
theorem no_location_iff_unmapped {p : Params} (hp : p.wf) {a : Nat} (h4 : a % 4 = 0) :
    ((∀ r : Reg, r.address ≠ a) ∧ ∀ b : Buf, ¬ (b.base ≤ a ∧ a < b.base + b.size p)) ↔ unmapped p a := by
  obtain ⟨⟨_, _, _⟩, _, _, _⟩ := hp
  unfold unmapped
  constructor
  · rintro ⟨hr, hb⟩
    have hr' : ∀ r ∈ Reg.all, r.address ≠ a := fun r _ => hr r
    have hb' : ∀ b ∈ Buf.all, ¬ (b.base ≤ a ∧ a < b.base + b.size p) := fun b _ => hb b
    simp only [Reg.all, Buf.all, List.forall_mem_cons, Reg.address, Buf.base, Buf.size] at hr' hb'
    omega
  · intro h
    refine ⟨fun r => ?_, fun b => ?_⟩
    · cases r <;> simp only [Reg.address] <;> omega
    · cases b <;> simp only [Buf.base, Buf.size] <;> omega

/-- An address has no location when it is misaligned or unmapped (R87, R89). -/
theorem locate_none_iff_unmapped {p : Params} (hp : p.wf) (a : PortAddr) :
    locate p a = none ↔ a.toNat % 4 ≠ 0 ∨ unmapped p a.toNat := by
  rw [locate_none_iff]
  by_cases h4 : a.toNat % 4 = 0
  · rw [no_location_iff_unmapped hp h4]
  · simp [h4]

/-- Every register stands at its address, for every choice of the parameters (R84). -/
theorem locate_address (p : Params) (r : Reg) : locate p (BitVec.ofNat 16 r.address) = some (.reg r) := by
  cases r <;> rfl

/-- An aligned address in the window of a buffer is that buffer's word: no register stands there, and no other buffer
lies there (R83, R84). -/
theorem locate_of_window {p : Params} (hp : p.wf) {a : PortAddr} {b : Buf} {k : Nat} (ha : a.toNat = b.base + k)
    (h4 : k % 4 = 0) (hk : k < b.size p) : locate p a = some (.buf b k) := by
  have hb := b.base_aligned
  cases hl : locate p a with
  | none =>
    rcases (locate_none_iff p a).1 hl with h | ⟨_, h⟩
    · omega
    · exact absurd ⟨by omega, by omega⟩ (h b)
  | some loc =>
    cases loc with
    | reg r =>
      have := r.address_lt_base b
      have := locate_reg_address hl
      omega
    | buf c n =>
      obtain ⟨_, hc, hn⟩ := locate_buf hl
      have e : b = c := buffers_disjoint (x := a.toNat) hp (by simp [Buf.holds]; omega) (by simp [Buf.holds]; omega)
      subst e
      rw [show n = k by omega]

/-- Settles O33: the two tables of the statement are those of `Reg.all` and of `Buf.all`. -/
theorem addressMapIsExact : Obligations.AddressMapIsExact := by
  intro p hp
  refine ⟨locate_none_iff_unmapped hp, fun a r h => ?_, fun base size b k h h4 hk => ?_⟩
  · obtain ⟨q, _, e⟩ := List.mem_map.1 (show (a, r) ∈ Reg.all.map fun q => (BitVec.ofNat 16 q.address, q) from h)
    cases e
    exact locate_address p r
  · obtain ⟨c, _, e⟩ := List.mem_map.1
      (show (base, size, b) ∈ Buf.all.map fun c => (c.base, c.size p, c) from h)
    cases e
    have := b.window_fits hp
    exact locate_of_window hp (Nat.mod_eq_of_lt (by omega)) h4 hk

end Sys2Proof.Machine
end

section
/-! What the host port answers, by the lines of 20_memory.md R85 and R86: refused, ignored, busy, and a read that goes
through. -/

namespace Sys2Proof.Machine

/-! ### Refused transactions -/

theorem hostRead_refused {a : PortAddr} {s : State} (h : locate s.params a = none) :
    hostRead a s = (s.raise .addr).answer 0 := by
  simp only [hostRead, h]

theorem hostWrite_refused {a : PortAddr} {s : State} (h : locate s.params a = none) (v : Word) :
    hostWrite a v s = .next (s.raise .addr) := by
  simp only [hostWrite, h]

/-- Settles O34: such an address has no location, and the port asks for one before it looks at `BUSY`. -/
theorem refusedTransactionsRaiseAddr : Obligations.RefusedTransactionsRaiseAddr := by
  intro s a rest hp ha
  have hl : locate s.params a = none := (locate_none_iff_unmapped hp a).2 ha
  refine ⟨fun h => ?_, fun v h => ?_⟩
  · rw [step_read h, hostRead_refused (s := s.turn rest) hl, State.raise_eq]
    rfl
  · rw [step_write h, hostWrite_refused (s := (s.turn rest).nextDraw) hl, State.raise_eq]
    rfl

/-! ### Idle-only locations while busy, and read-only locations -/

theorem hostRead_busy {a : PortAddr} {loc : Location} {s : State} (hl : locate s.params a = some loc)
    (hi : loc.live = false) (hb : s.busy = true) :
    hostRead a s = (s.answer (Config.busyWord s.draws)).nextDraw := by
  simp [hostRead, hl, hi, hb]

/-- Settles O36: the word is the free one of the busy read, and only the draw counter moves on. -/
theorem busyReadChangesNothing : Obligations.BusyReadChangesNothing := by
  intro s rest a loc h hb hl hi
  exact ⟨_, _, (step_read h).trans (congrArg _ (hostRead_busy (s := s.turn rest) hl hi hb)), rfl, rfl⟩

/-- `STATUS` and `CTRL` are no read-only locations (R84). -/
theorem Location.ne_of_readOnly {loc : Location} (h : loc.readOnly = true) :
    loc ≠ .reg .status ∧ loc ≠ .reg .ctrl := by
  constructor <;> rintro rfl <;> cases h

theorem hostWrite_readOnly {a : PortAddr} {loc : Location} {s : State} (hl : locate s.params a = some loc)
    (hr : loc.readOnly = true) (v : Word) : hostWrite a v s = .next s := by
  obtain ⟨hstatus, hctrl⟩ := Location.ne_of_readOnly hr
  simp [hostWrite, hl, hr, hstatus, hctrl]

theorem readOnly_registers : ∀ loc ∈ [Location.reg .id, .reg .proto, .reg .cap0, .reg .cap1, .reg .oklen],
    loc.readOnly = true := by decide

/-- Settles O39: the five registers and the four buffers are read-only locations. -/
theorem readOnlyWriteIsIgnored : Obligations.ReadOnlyWriteIsIgnored := by
  intro s rest a v loc h hl hloc
  have hr : loc.readOnly = true := by
    rcases hloc with hm | ⟨k, rfl | rfl | rfl | rfl⟩
    · exact readOnly_registers loc hm
    iterate 4 rfl
  exact (step_write h).trans (hostWrite_readOnly (s := (s.turn rest).nextDraw) hl hr v)

theorem hostWrite_busy_idleOnly {a : PortAddr} {loc : Location} {s : State} (hl : locate s.params a = some loc)
    (hr : loc.readOnly = false) (hstatus : loc ≠ .reg .status) (hctrl : loc ≠ .reg .ctrl) (hb : s.busy = true)
    (v : Word) : hostWrite a v s = .next (s.raise .busy) := by
  simp [hostWrite, hl, hr, hstatus, hctrl, hb]

/-- Settles O40: the write is dropped, and `raise` keeps the first error (R283). -/
theorem busyWriteRaisesBusy : Obligations.BusyWriteRaisesBusy := by
  intro s rest a v loc h hb hl hr hstatus hctrl
  rw [step_write h, hostWrite_busy_idleOnly (s := (s.turn rest).nextDraw) hl hr hstatus hctrl hb, State.raise_eq]
  rfl

/-! ### All transactions while busy -/

/-- While busy a write changes nothing but `ERR`, `ERRCODE`, `DONE` and the enables (R88). -/
theorem hostWrite_busy_frame {a : PortAddr} {v : Word} {s t : State} (hb : s.busy = true)
    (h : hostWrite a v s = .next t) :
    t = { s with err := t.err, errcode := t.errcode, done := t.done, ieDone := t.ieDone, ieErr := t.ieErr } := by
  rcases hostWrite_next h with ⟨e, rfl⟩ | ⟨_, rfl⟩ | rfl | rfl | ⟨_, hi, _⟩ | ⟨_, _, hi, _⟩ | ⟨_, _, hi, _⟩
  case inl => rw [State.raise_eq]
  case inr.inl => rw [writeStatus_eq]
  case inr.inr.inl => rfl
  case inr.inr.inr.inl => rfl
  all_goals exact absurd hb (by simp [hi])

/-- A read changes nothing of the machine but `ERR` and `ERRCODE` (R85). -/
theorem hostRead_frame_errors (a : PortAddr) (s : State) :
    hostRead a s =
      { s with
        response := (hostRead a s).response, draws := (hostRead a s).draws
        err := (hostRead a s).err, errcode := (hostRead a s).errcode } := by
  rcases hostRead_cases a s with ⟨_, e⟩ | ⟨_, _, _, e⟩ | ⟨_, _, _, _, e⟩ <;> rw [e]
  case inl => rw [State.raise_eq]; rfl
  case inr.inl => rfl
  case inr.inr => rfl

/-- Settles O54: a read and a write go on, each with its frame. -/
theorem busyTransactionsLeaveTheCommandAlone : Obligations.BusyTransactionsLeaveTheCommandAlone := by
  rintro s rest _ h hb (⟨a, rfl⟩ | ⟨a, v, rfl⟩)
  · refine ⟨_, step_read h, ?_⟩
    rw [hostRead_frame_errors]
    rfl
  · obtain ⟨t, ht⟩ := hostWrite_goes_on a v (s.turn rest).nextDraw
    refine ⟨t, (step_write h).trans ht, ?_⟩
    rw [hostWrite_busy_frame (s := (s.turn rest).nextDraw) hb ht]
    rfl

/-! ### Submission and completion -/

/-- Settles O3: a `CMD` write while idle submits its word, and the core's turn while busy runs `PENDING`. -/
theorem stepRunsDecodedCommand : Obligations.StepRunsDecodedCommand := by
  refine ⟨fun s w i rest h hb hd => ?_, fun s i rest h hb hd => ?_⟩
  · rw [step_write h]
    refine (hostWrite_cmd_idle (s := (s.turn rest).nextDraw) hb w).trans ?_
    rw [submit, hd]
    rfl
  · rw [step_coreNext h, coreTurn, State.turn_busy, if_pos hb, State.turn_pending, hd]
    rfl

end Sys2Proof.Machine
end

section
/-! Reads that go through return the location, and a buffer word written reads back (20_memory.md R83, R85, R86). -/

namespace Sys2Proof.Machine

/-! ### What a read returns -/

/-- A read of a live register, or of any mapped location while idle, returns the location (R85). -/
theorem hostRead_readable {a : PortAddr} {loc : Location} {s : State} (hl : locate s.params a = some loc)
    (hr : loc.live = true ∨ s.busy = false) : hostRead a s = s.answer (s.wordAt loc) := by
  rcases hr with h | h <;> simp [hostRead, hl, h]

/-- Taking the next event leaves the word at a location (R94). -/
theorem wordAt_turn (s : State) (rest : List Event) (loc : Location) : (s.turn rest).wordAt loc = s.wordAt loc := by
  cases loc with
  | reg r => exact register_turn s rest r
  | buf b k => rfl

/-- Answering a read leaves the word at a location (R85). -/
theorem wordAt_answer (s : State) (w : Word) (loc : Location) : (s.answer w).wordAt loc = s.wordAt loc := by
  cases loc with
  | reg r => cases r <;> rfl
  | buf b k => rfl

theorem step_read_readable {s : State} {rest : List Event} {a : PortAddr} {loc : Location}
    (h : s.events = .read a :: rest) (hl : locate s.params a = some loc) (hr : loc.live = true ∨ s.busy = false) :
    step s = .next ((s.turn rest).answer (s.wordAt loc)) := by
  rw [step_read h, hostRead_readable (s := s.turn rest) hl hr, wordAt_turn]

theorem step_read_refused {s : State} {rest : List Event} {a : PortAddr} (h : s.events = .read a :: rest)
    (hl : locate s.params a = none) : step s = .next (((s.turn rest).raise .addr).answer 0) := by
  rw [step_read h, hostRead_refused (s := s.turn rest) hl]

/-- The word a read that goes through returns. -/
theorem response_of_read {s t : State} {rest : List Event} {a : PortAddr} {loc : Location} (ht : step s = .next t)
    (h : s.events = .read a :: rest) (hl : locate s.params a = some loc) (hr : loc.live = true ∨ s.busy = false) :
    t.response = some (s.wordAt loc) := by
  cases ht.symm.trans (step_read_readable h hl hr)
  rfl

theorem response_of_read_refused {s t : State} {rest : List Event} {a : PortAddr} (ht : step s = .next t)
    (h : s.events = .read a :: rest) (hl : locate s.params a = none) : t.response = some 0 := by
  cases ht.symm.trans (step_read_refused h hl)
  rfl

/-- The four bytes of a written buffer word, the low address in the low byte (R83). -/
theorem wordAt_buf_of_cells {s : State} {b : Buf} {k : Nat} {b0 b1 b2 b3 : Byte} (h0 : s.cell (b.base + k) = some b0)
    (h1 : s.cell (b.base + k + 1) = some b1) (h2 : s.cell (b.base + k + 2) = some b2)
    (h3 : s.cell (b.base + k + 3) = some b3) : s.wordAt (.buf b k) = b3 ++ b2 ++ b1 ++ b0 := by
  have e : s.bytesAt (b.base + k) 4 = [b0, b1, b2, b3] := by
    rw [← State.byteAt_of_cell h0, ← State.byteAt_of_cell h1, ← State.byteAt_of_cell h2, ← State.byteAt_of_cell h3]
    rfl
  rw [State.wordAt, e]
  rfl

/-- Settles O37: the table of the statement is that of the idle-only registers of `Reg.all`. -/
theorem idleReadReturnsTheLocation : Obligations.IdleReadReturnsTheLocation := by
  intro s rest a h hb
  refine ⟨fun w hw => ?_, fun b k b0 b1 b2 b3 hl h0 h1 h2 h3 => ?_⟩
  · obtain ⟨r, _, e⟩ := List.mem_map.1 (show (a, w) ∈ (Reg.all.filter fun r => !r.live).map
      fun r => (BitVec.ofNat 16 r.address, s.register r) from hw)
    cases e
    exact step_read_readable h (locate_address s.params r) (.inr hb)
  · rw [step_read_readable h hl (.inr hb), wordAt_buf_of_cells h0 h1 h2 h3]
    rfl

/-- Settles O38: the first read leaves the word at the location, and a refused read returns 0 each time. -/
theorem readsAreIdempotent : Obligations.ReadsAreIdempotent := by
  intro s t u a rest h hr ht hu
  cases hl : locate s.params a with
  | none =>
    cases ht.symm.trans (step_read_refused h hl)
    exact response_of_read_refused hu (rest := rest) (a := a) (by simp) (by simpa using hl)
  | some loc =>
    cases ht.symm.trans (step_read_readable h hl (hr loc hl))
    rw [response_of_read hu rfl hl (hr loc hl), wordAt_answer, wordAt_turn]
    rfl

/-! ### A buffer word after a write -/

/-- Settles O46: the four bytes stored are the bytes of the word, low byte first. -/
theorem bufferWriteStoresFourBytes : Obligations.BufferWriteStoresFourBytes := by
  intro s rest a v b k h hb hl hr
  refine ⟨_, step_buffer_write h hb hl hr, fun x => ?_, rfl⟩
  rw [State.cell_store, bytesLe_word]
  rfl

/-- Bytes stored read back (R83). -/
theorem State.bytesAt_store_same (s : State) (a : Nat) (bs : List Byte) : (s.store a bs).bytesAt a bs.length = bs := by
  apply List.ext_getElem (State.length_bytesAt ..)
  intro k _ hk
  have hc : (s.store a bs).cell (a + k) = some bs[k] := by
    rw [State.cell_store, if_pos (by omega), Nat.add_sub_cancel_left, List.getElem?_eq_getElem hk]
  apply Option.some.inj
  rw [← List.getElem?_eq_getElem, State.getElem?_bytesAt _ _ _ _ hk, State.byteAt_of_cell hc]

/-- Written bytes read the same in two states that hold the same cells, whatever free values these draw (R85). -/
theorem State.bytesAt_congr_of_written {s t : State} {a n : Nat} (hw : ∀ k, k < n → (s.cell (a + k)).isSome = true)
    (h : ∀ k, k < n → t.cell (a + k) = s.cell (a + k)) : t.bytesAt a n = s.bytesAt a n := by
  refine List.map_congr_left fun k hk => ?_
  obtain ⟨b, hb⟩ := Option.isSome_iff_exists.1 (hw k (List.mem_range.1 hk))
  rw [State.byteAt_of_cell hb, State.byteAt_of_cell ((h k (List.mem_range.1 hk)).trans hb)]

/-- The words at two different addresses have no byte in common (R83, R87). -/
theorem words_disjoint {p : Params} {a a' : PortAddr} {b b' : Buf} {k k' : Nat} (hl : locate p a = some (.buf b k))
    (hl' : locate p a' = some (.buf b' k')) (hne : a' ≠ a) {n : Nat} (hn : n < 4) :
    ¬ (b.base + k ≤ b'.base + k' + n ∧ b'.base + k' + n < b.base + k + 4) := by
  obtain ⟨h4, ha, _⟩ := locate_buf hl
  obtain ⟨h4', ha', _⟩ := locate_buf hl'
  have : a'.toNat ≠ a.toNat := fun e => hne (BitVec.eq_of_toNat_eq e)
  omega

/-- A buffer word stored is the word there. -/
theorem wordAt_store_same (s : State) (b : Buf) (k : Nat) (v : Word) :
    (s.store (b.base + k) (bytesLe v.toNat 4)).wordAt (.buf b k) = v := by
  have e := s.bytesAt_store_same (b.base + k) (bytesLe v.toNat 4)
  rw [length_bytesLe] at e
  rw [State.wordAt, e, le32_bytesLe]

/-- A buffer word stored over the cells of `s` leaves what every other word of `s` reads as, where it was written. -/
theorem wordAt_store_other {s t : State} {p : Params} {a a' : PortAddr} {b b' : Buf} {k k' : Nat}
    (hst : storedNothing s t) (hl : locate p a = some (.buf b k)) (hl' : locate p a' = some (.buf b' k'))
    (hne : a' ≠ a) (hw : ∀ n, n < 4 → (s.cell (b'.base + k' + n)).isSome = true) (v : Word) :
    (t.store (b.base + k) (bytesLe v.toNat 4)).wordAt (.buf b' k') = s.wordAt (.buf b' k') := by
  refine congrArg le32 (State.bytesAt_congr_of_written hw fun n hn => ?_)
  rw [State.cell_store, length_bytesLe, if_neg (words_disjoint hl hl' hne hn), hst]

/-- Settles O47: the second event reads the word at its location in the state the write left. -/
theorem bufferWordReadsBack : Obligations.BufferWordReadsBack := by
  intro s t u rest a a' v b b' k k' h hb hl hro hl' ht hu
  cases ht.symm.trans (step_buffer_write h hb hl hro)
  rw [response_of_read hu rfl hl' (.inr hb)]
  refine ⟨fun ha => ?_, fun hne hw => ?_⟩
  · subst ha
    cases hl.symm.trans hl'
    rw [wordAt_store_same]
  · have hst : storedNothing s (s.turn (.read a' :: rest)).nextDraw := fun _ => rfl
    rw [wordAt_store_other hst hl hl' hne hw]
    rfl

end Sys2Proof.Machine
end

section
/-! Decoding inverts encoding exactly, and every command whose checks pass is accepted (30_encoding.md R111, R118,
45_sequencer.md R262). -/

namespace Sys2Proof.Machine

/-- Settles O2: no word but a command's own decodes to it (`encode_of_decode`), and its own does (`decode_encode`). -/
theorem decodeExactlyInvertsEncode : Obligations.DecodeExactlyInvertsEncode := by
  intro w i
  constructor
  · intro h
    exact (encode_of_decode h).symm
  · rintro rfl
    exact decode_encode i

/-- Settles O1: the words of the table are the commands' own words, each of which decodes to its command. -/
theorem specWordsDecode : Obligations.SpecWordsDecode :=
  ⟨decode_encode .nop, decode_encode .digest, decode_encode .rc4Init, decode_encode .rc4Proc,
    decode_encode (.pad .user), decode_encode (.pad .owner), decode_encode .deriveOwner, decode_encode .deriveFkey,
    decode_encode .deriveUser, decode_encode .objkey, decode_encode .encObj⟩

/-- Settles O7: every arm of `exec` is `runCommand`, which accepts an idle command that passes its checks. -/
theorem everyCommandIsAccepted : Obligations.EveryCommandIsAccepted := by
  intro s i hb hc
  rw [exec_eq_runCommand, runCommand_accepts hb hc]
  rfl

end Sys2Proof.Machine
end

section
/-! The digest (40_digest.md): the padding of a message, the engine block by block, and the command `DIGEST`. -/

namespace Sys2Proof.Machine

/-! ### The padding (R141) -/

/-- The zeros bring the length field to the end of a block. -/
theorem padZeros_spec (n : Nat) : (n + 1 + padZeros n) % 64 = 56 := by
  unfold padZeros
  omega

/-- No smaller number of zeros does. -/
theorem padZeros_le {n z : Nat} (h : (n + 1 + z) % 64 = 56) : padZeros n ≤ z := by
  unfold padZeros
  omega

/-- 0x80, the zeros and the length field of 8 bytes. -/
theorem length_digestPadding (n : Nat) : (digestPadding n).length = 1 + padZeros n + 8 := by
  simp only [digestPadding, List.length_append, List.length_cons, length_zeros, length_bytesLe]
  omega

/-- The message and its padding fill whole blocks. -/
theorem length_padded (m : List Byte) : (m ++ digestPadding m.length).length = 64 * blockCount m.length := by
  rw [List.length_append, length_digestPadding, blockCount, padZeros]
  omega

/-- The zeros stand behind the 0x80. -/
theorem digestPadding_zeros (n : Nat) : ((digestPadding n).drop 1).take (padZeros n) = List.replicate (padZeros n) 0 :=
  List.take_left' (length_zeros _)

/-- The bit length stands behind the zeros. -/
theorem digestPadding_lengthField (n : Nat) :
    (digestPadding n).drop (1 + padZeros n) = bytesLe (8 * n % 2 ^ 64) 8 :=
  List.drop_left' (by rw [List.length_cons, length_zeros, Nat.add_comm])

/-- Settles O21, part by part from the definition of the padding. -/
theorem digestPaddingFillsBlocks : Obligations.DigestPaddingFillsBlocks := fun m =>
  ⟨length_padded m, rfl, padZeros_spec m.length, fun _ => padZeros_le, digestPadding_zeros m.length, rfl,
    digestPadding_lengthField m.length⟩

/-! ### The engine block by block (R140, R147, R267) -/

/-- Every block of a padded message is whole. -/
theorem length_blockAt {p : List Byte} {n t : Nat} (hp : p.length = 64 * n) (ht : t < n) : (blockAt p t).length = 64 := by
  rw [blockAt, List.length_take, List.length_drop]
  omega

/-- The engine after any of the blocks: they are compressed into the running accumulators, in order, and counted. -/
theorem foldl_absorb {p : List Byte} (ts : List Nat) (hts : ∀ t ∈ ts, (blockAt p t).length = 64) (d : DigestState) :
    (ts.foldl (fun d t => d.absorb (blockAt p t)) d).h = ts.foldl (fun h t => compress h (blockAt p t)) d.h ∧
    (ts.foldl (fun d t => d.absorb (blockAt p t)) d).nbytes = d.nbytes + BitVec.ofNat 64 (64 * ts.length) := by
  induction ts generalizing d with
  | nil => exact ⟨rfl, (BitVec.add_zero _).symm⟩
  | cons t ts ih =>
    obtain ⟨ht, hts⟩ := List.forall_mem_cons.1 hts
    obtain ⟨hh, hn⟩ := absorb_block d ht
    obtain ⟨ihh, ihn⟩ := ih hts (d.absorb (blockAt p t))
    simp only [List.foldl_cons]
    refine ⟨by rw [ihh, hh], ?_⟩
    rw [ihn, hn, List.length_cons, Nat.mul_succ, Nat.add_comm (64 * ts.length), BitVec.ofNat_add, BitVec.add_assoc]
    rfl

/-- A whole computation, whatever an earlier one left: the accumulators of `digestBlocks`, and the bytes of the padded
message counted (log 18). -/
theorem compute_eq (d : DigestState) (m : List Byte) :
    (d.compute m).h = digestBlocks m ∧ (d.compute m).nbytes = BitVec.ofNat 64 (64 * blockCount m.length) := by
  obtain ⟨hh, hn⟩ := foldl_absorb (List.range (blockCount m.length))
    (fun t ht => length_blockAt (length_padded m) (List.mem_range.1 ht)) d.start
  refine ⟨hh, hn.trans ?_⟩
  rw [List.length_range]
  exact BitVec.zero_add _

/-! The reference digests of 95_test_vectors.md -/

/-- D1: no byte. -/
theorem md5_empty : md5 [] =
    [0xD4, 0x1D, 0x8C, 0xD9, 0x8F, 0x00, 0xB2, 0x04, 0xE9, 0x80, 0x09, 0x98, 0xEC, 0xF8, 0x42, 0x7E] := by
  decide +kernel

/-- D3: "abc". -/
theorem md5_abc : md5 [0x61, 0x62, 0x63] =
    [0x90, 0x01, 0x50, 0x98, 0x3C, 0xD2, 0x4F, 0xB0, 0xD6, 0x96, 0x3F, 0x7D, 0x28, 0xE1, 0x7F, 0x72] := by
  decide +kernel

/-- D10: 64 bytes 0x61, two blocks. -/
theorem md5_replicate_64 : md5 (List.replicate 64 0x61) =
    [0x01, 0x48, 0x42, 0xD4, 0x80, 0xB5, 0x71, 0x49, 0x5A, 0x4A, 0x03, 0x63, 0x79, 0x3F, 0x73, 0x67] := by
  decide +kernel

/-- Settles O22: the engine compresses the blocks that `md5` compresses, in the same order (`foldl_absorb`); the three
digests are computed. -/
theorem digestEngineComputesMd5 : Obligations.DigestEngineComputesMd5 := by
  refine ⟨fun d m => ?_, md5_empty, md5_abc, md5_replicate_64⟩
  obtain ⟨hh, hn⟩ := compute_eq d m
  exact ⟨congrArg digestOutput hh, hn⟩

/-! ### The command `DIGEST` (R149) -/

/-- While busy `exec` completes the command (R263). -/
theorem exec_busy {i : Instr} {s : State} (hb : s.busy = true) : exec i s = .next (completion i s).finish := by
  rw [exec_eq_runCommand, runCommand_busy hb]

/-- A result whose input bytes were all written is the computed one (R325). -/
theorem resultBytes_of_allWritten {s : State} {b : Buf} {n : Nat} (h : allWritten s b.base n) (out : Buf)
    (bs : List Byte) : s.resultBytes out (s.bufferWritten b n) bs = bs := by
  rw [State.bufferWritten_of h, resultBytes_of_written]

/-- The one buffer `DIGEST` writes is `DOUT`. -/
theorem completeDigest_storedExactly (s : State) : storedExactly s (completeDigest s).finish 0x0120
    (s.resultBytes .dout s.messageWritten (md5 s.message)) := by
  intro x
  rw [State.cell_finish, completeDigest_cell, length_resultBytes, length_md5]
  rfl

/-- Settles O11: the completion stores the result bytes of the message's digest in `DOUT`. -/
theorem digestCompletes : Obligations.DigestCompletes := by
  intro s hb _
  refine ⟨(completeDigest s).finish, s.resultBytes .dout s.messageWritten (md5 s.message), exec_busy hb, ?_,
    fun hw => resultBytes_of_allWritten (b := .msg) hw .dout _, completeDigest_storedExactly s, ?_⟩
  · rw [length_resultBytes, length_md5]
  · rw [completeDigest_eq]
    rfl

end Sys2Proof.Machine
end

section
/-! The stream cipher (41_cipher.md): its keystream, its symmetry, the commands `RC4_INIT` and `RC4_PROC`, and `ENC_OBJ`
on its own output. -/

namespace Sys2Proof.Machine

/-! ### Processing (R172, R175, R176) -/

/-- One byte processed is one keystream step. -/
theorem cipherProcess_cons (c : CipherState) (x : Byte) (xs : List Byte) :
    cipherProcess c (x :: xs) =
      ((cipherProcess (cipherStep c) xs).1,
        (x ^^^ keystreamByte (cipherStep c)) :: (cipherProcess (cipherStep c) xs).2) := rfl

theorem cipherProcess_append (c : CipherState) (x y : List Byte) :
    cipherProcess c (x ++ y) =
      ((cipherProcess (cipherProcess c x).1 y).1, (cipherProcess c x).2 ++ (cipherProcess (cipherProcess c x).1 y).2) := by
  induction x generalizing c with
  | nil => rfl
  | cons b x ih => simp only [List.cons_append, cipherProcess_cons, ih]

/-- Settles O25, by induction on the first piece. -/
theorem cipherContinuesAcrossCalls : Obligations.CipherContinuesAcrossCalls := cipherProcess_append

/-- The output processed from the state the data was processed from gives the data back, and ends in the same state: both
meet the same keystream bytes. -/
theorem cipherProcess_output (c : CipherState) (d : List Byte) :
    cipherProcess c (cipherProcess c d).2 = ((cipherProcess c d).1, d) := by
  induction d generalizing c with
  | nil => rfl
  | cons x xs ih => simp only [cipherProcess_cons, ih, BitVec.xor_assoc, BitVec.xor_self, BitVec.xor_zero]

/-- Settles O24: both calls start from the key schedule of the one key. -/
theorem cipherIsSymmetric : Obligations.CipherIsSymmetric := fun key data =>
  congrArg Prod.snd (cipherProcess_output (keySchedule key) data)

theorem zeros_succ (n : Nat) : zeros (n + 1) = 0#8 :: zeros n := rfl

/-- The state afterwards depends on the length of the data alone. -/
theorem cipherProcess_state_zeros (c : CipherState) (d : List Byte) :
    (cipherProcess c d).1 = (cipherProcess c (zeros d.length)).1 := by
  induction d generalizing c with
  | nil => rfl
  | cons x xs ih => simp only [List.length_cons, zeros_succ, cipherProcess_cons, ih]

/-- What zero bytes give is the keystream, and the output is the data XORed with it. -/
theorem cipherProcess_output_zeros (c : CipherState) (d : List Byte) :
    (cipherProcess c d).2 = List.zipWith (fun x k => x ^^^ k) d (cipherProcess c (zeros d.length)).2 := by
  induction d generalizing c with
  | nil => rfl
  | cons x xs ih =>
    simp only [List.length_cons, zeros_succ, cipherProcess_cons, List.zipWith_cons_cons, BitVec.zero_xor, ← ih]

/-- Settles O26: a keystream step is a swap of two entries, and the two halves of the independence are inductions on the
data. -/
theorem keystreamIgnoresTheData : Obligations.KeystreamIgnoresTheData := by
  refine ⟨fun c x => ?_, fun c data => ⟨cipherProcess_state_zeros c data, cipherProcess_output_zeros c data⟩⟩
  exact ⟨(cipherStep c).S, (cipherStep c).i, (cipherStep c).j,
    tableAt (cipherStep c).S (cipherStep c).i + tableAt (cipherStep c).S (cipherStep c).j, rfl, rfl, rfl, rfl,
    getElem_swapEntries_left c.S _ (cipherStep c).i.isLt rfl, getElem_swapEntries_right c.S _ (cipherStep c).i.isLt rfl,
    fun _ hm hi hj => getElem_swapEntries_other c.S hm hi hj⟩

/-! ### The command `RC4_INIT` (R173) -/

/-- The cipher state of `RC4_INIT` holds a permutation and both cursors are 0, whatever was written of the key (R54,
R171). -/
theorem completeRc4Init_cipher (s : State) : isPermutation (completeRc4Init s).cipher.S ∧
    (completeRc4Init s).cipher.i = 0 ∧ (completeRc4Init s).cipher.j = 0 := by
  rw [completeRc4Init_eq]
  dsimp only
  split
  · exact ⟨keySchedule_perm _, keySchedule_i _, rfl⟩
  · exact ⟨unknownKeyCipher_perm _ _, unknownKeyCipher_i _ _, unknownKeyCipher_j_zero _⟩

/-- The cipher state of `RC4_INIT` where the key was written. -/
theorem completeRc4Init_cipher_of_written {s : State} (h : allWritten s Buf.key.base s.klen.toNat) :
    (completeRc4Init s).cipher = keySchedule s.cipherKey := by
  rw [completeRc4Init_eq]
  exact if_pos (State.bufferWritten_of h)

/-- Settles O12: the completion writes the cipher state and `CVALID` alone. -/
theorem rc4InitCompletes : Obligations.Rc4InitCompletes := by
  intro s hb _ _
  obtain ⟨hperm, hi, hj⟩ := completeRc4Init_cipher s
  exact ⟨(completeRc4Init s).finish, exec_busy hb, fun _ => rfl, hperm, hi, hj,
    fun hw => completeRc4Init_cipher_of_written hw, rfl⟩

/-! ### The command `RC4_PROC` (R174) -/

/-- The one buffer `RC4_PROC` writes is `MSG`. -/
theorem completeRc4Proc_storedExactly (s : State) : storedExactly s (completeRc4Proc s).finish 0x1000
    (cipherProcess s.cipher s.message).2 := fun x =>
  (State.cell_finish _ x).trans (completeRc4Proc_cell s x)

/-- Settles O13: the bytes stored are the output of the cipher on the message. -/
theorem rc4ProcCompletes : Obligations.Rc4ProcCompletes := by
  intro s hb _ _
  refine ⟨(completeRc4Proc s).finish, (cipherProcess s.cipher s.message).2, exec_busy hb, ?_, fun _ _ => rfl,
    completeRc4Proc_storedExactly s, ?_⟩
  · rw [length_cipherProcess, State.length_message]
  · rw [completeRc4Proc_eq]
    rfl

/-! ### `ENC_OBJ` on its own output (R241, R243) -/

/-- The state a submission of `ENC_OBJ` and its completion leave, if it is accepted. -/
def State.afterEncObj (s : State) : State := (completeEncObj (s.accept (encode .encObj))).finish

/-- `ENC_OBJ` from submission to completion (R262, R263). -/
theorem exec_encObj_runs {s : State} (hb : s.busy = false) (hc : s.submissionError .encObj = none) :
    ∃ t, exec .encObj s = .next t ∧ exec .encObj t = .next s.afterEncObj :=
  ⟨s.accept (encode .encObj), by rw [exec_eq_runCommand, runCommand_accepts hb hc], exec_busy rfl⟩

/-- `ENC_OBJ` leaves the registers it is checked on, so it passes its checks again (R285). -/
theorem submissionError_afterEncObj (s : State) :
    s.afterEncObj.submissionError .encObj = s.submissionError .encObj := rfl

/-- A file key that passes its check lies in its 16-byte buffer (R285). -/
theorem fklen_le_of_encObj_checked {s : State} (h : s.submissionError .encObj = none) : s.fklen.toNat ≤ 16 := by
  have hk : s.fileKeyLengthError = none := (Option.or_eq_none_iff.1 h).2
  by_contra hgt
  rw [State.fileKeyLengthError, if_pos (.inr (by omega))] at hk
  cases hk

/-- `ENC_OBJ` leaves `FKEY`: `OKEY` and `MSG` lie above it (R84). -/
theorem afterEncObj_cell_fkey (s : State) {k : Nat} (hk : k < 16) :
    s.afterEncObj.cell (0x0100 + k) = s.cell (0x0100 + k) := by
  rw [State.afterEncObj, State.cell_finish, completeEncObj_cell, if_neg (by simp only [Buf.base]; omega),
    completeObjkey_cell, if_neg (by simp only [Buf.base]; omega)]
  rfl

/-- The payload `ENC_OBJ` leaves where the file key was written (R243). -/
theorem afterEncObj_cell_msg {s : State} (hw : allWritten s Buf.fkey.base s.fklen.toNat) {k : Nat}
    (hk : k < s.mlen.toNat) :
    s.afterEncObj.cell (0x1000 + k) = (encryptPayload s.message s.fileKey s.objnum.toNat s.gennum.toNat)[k]? := by
  have hmsg : (s.accept (encode .encObj)).encryptedMessage =
      encryptPayload s.message s.fileKey s.objnum.toNat s.gennum.toNat :=
    resultBytes_of_allWritten (s := s.accept (encode .encObj)) (b := .fkey) hw .msg _
  have hin : Buf.msg.base ≤ 0x1000 + k ∧ 0x1000 + k < Buf.msg.base + (s.accept (encode .encObj)).mlen.toNat :=
    ⟨Nat.le_add_right .., Nat.add_lt_add_left hk _⟩
  rw [State.afterEncObj, State.cell_finish, completeEncObj_cell, if_pos hin, hmsg]
  exact congrArg _ (Nat.add_sub_cancel_left ..)

/-- The bytes read where the cells are known. -/
theorem State.bytesAt_of_cells {s : State} {a n : Nat} {bs : List Byte} (hn : bs.length = n)
    (h : ∀ k, k < n → s.cell (a + k) = bs[k]?) : s.bytesAt a n = bs := by
  subst hn
  refine List.ext_getElem (State.length_bytesAt ..) fun k _ hk => ?_
  apply Option.some.inj
  rw [← List.getElem?_eq_getElem, State.getElem?_bytesAt _ _ _ _ hk,
    State.byteAt_of_cell ((h k hk).trans (List.getElem?_eq_getElem hk))]

/-- Encrypting what was encrypted with the same key and object address gives the data back (R241, R175). -/
theorem encryptPayload_encryptPayload (data fkey : List Byte) (obj gen : Nat) :
    encryptPayload (encryptPayload data fkey obj gen) fkey obj gen = data := cipherIsSymmetric _ data

/-- A second `ENC_OBJ` gives the message back: it finds the output of the first as its message, and the same file key. -/
theorem afterEncObj_afterEncObj_cell_msg {s : State} (hc : s.submissionError .encObj = none)
    (hkey : allWritten s Buf.fkey.base s.fklen.toNat) (hmsg : allWritten s Buf.msg.base s.mlen.toNat) {k : Nat}
    (hk : k < s.mlen.toNat) : s.afterEncObj.afterEncObj.cell (0x1000 + k) = s.cell (0x1000 + k) := by
  have hcell : ∀ n, n < s.fklen.toNat → s.afterEncObj.cell (Buf.fkey.base + n) = s.cell (Buf.fkey.base + n) :=
    fun n hn => afterEncObj_cell_fkey s (Nat.lt_of_lt_of_le hn (fklen_le_of_encObj_checked hc))
  have hkey' : allWritten s.afterEncObj Buf.fkey.base s.afterEncObj.fklen.toNat :=
    fun n hn => by rw [hcell n hn]; exact hkey n hn
  have ekey : s.afterEncObj.fileKey = s.fileKey := State.bytesAt_congr_of_written hkey hcell
  have emsg : s.afterEncObj.message = encryptPayload s.message s.fileKey s.objnum.toNat s.gennum.toNat :=
    State.bytesAt_of_cells (by rw [length_encryptPayload, State.length_message]; rfl)
      fun n hn => afterEncObj_cell_msg hkey hn
  obtain ⟨b, hb⟩ := Option.isSome_iff_exists.1 (hmsg k hk)
  calc s.afterEncObj.afterEncObj.cell (0x1000 + k)
    _ = (encryptPayload s.afterEncObj.message s.afterEncObj.fileKey s.objnum.toNat s.gennum.toNat)[k]? :=
        afterEncObj_cell_msg hkey' hk
    _ = s.message[k]? := by rw [emsg, ekey, encryptPayload_encryptPayload]
    _ = some (s.byteAt (Buf.msg.base + k)) := State.getElem?_bytesAt _ _ _ _ hk
    _ = s.cell (0x1000 + k) := by rw [State.byteAt_of_cell hb]; exact hb.symm

/-- Settles O59: `ENC_OBJ` from submission to completion, twice, with what the second leaves of the message. -/
theorem encObjTwiceRestoresTheMessage : Obligations.EncObjTwiceRestoresTheMessage := by
  intro s hb hc hkey hmsg
  obtain ⟨s1, h1, h2⟩ := exec_encObj_runs hb hc
  obtain ⟨s3, h3, h4⟩ := exec_encObj_runs (s := s.afterEncObj) rfl ((submissionError_afterEncObj s).trans hc)
  exact ⟨s1, s.afterEncObj, s3, s.afterEncObj.afterEncObj, h1, h2, h3, h4, rfl, rfl,
    fun _ hk => afterEncObj_afterEncObj_cell_msg hc hkey hmsg hk⟩

end Sys2Proof.Machine
end

section
/-! The password normalizer (42_pad.md): the forms of a padded password, and the command `PAD`. -/

namespace Sys2Proof.Machine

/-! ### The padded password (R201) -/

/-- A password of 32 bytes or more is cut. -/
theorem padPassword_of_ge {p : List Byte} (h : 32 ≤ p.length) : padPassword p = p.take 32 := by
  rw [padPassword, Nat.min_eq_right h, Nat.sub_self, List.take_zero, List.append_nil]

/-- A password of at most 32 bytes stands whole in front of the fill. -/
theorem padPassword_of_le {p : List Byte} (h : p.length ≤ 32) :
    padPassword p = p ++ padding.take (32 - p.length) := by
  rw [padPassword, Nat.min_eq_left h, List.take_length]

/-- Settles O27: the cut of a long password and the fill of a short one; the empty password is all fill. -/
theorem paddedPasswordForms : Obligations.PaddedPasswordForms :=
  ⟨rfl, fun p => ⟨length_padPassword p, padPassword_of_ge, fun h => padPassword_of_le h.le,
    padPassword_of_le (Nat.zero_le _)⟩⟩

/-! ### The command `PAD` (R202) -/

/-- What `PAD` makes of `n` password bytes in memory: byte `k` is the byte at `a + k` where that was written (R325), and
the fill stands behind byte `n - 1`. -/
theorem padPassword_bytesAt (s : State) (a : Nat) {n : Nat} (hn : n ≤ 32) :
    (∀ k x, k < n → s.cell (a + k) = some x → (padPassword (s.bytesAt a n))[k]? = some x) ∧
    (padPassword (s.bytesAt a n)).drop n = padding.take (32 - n) := by
  have hlen : (s.bytesAt a n).length = n := s.length_bytesAt a n
  have hpad : padPassword (s.bytesAt a n) = s.bytesAt a n ++ padding.take (32 - n) := by
    rw [padPassword_of_le (hlen.trans_le hn), hlen]
  rw [hpad]
  refine ⟨fun k x hk hx => ?_, List.drop_left' hlen⟩
  rw [List.getElem?_append_left (hk.trans_eq hlen.symm), State.getElem?_bytesAt _ _ _ _ hk, State.byteAt_of_cell hx]

/-- The one buffer `PAD` writes is `PADOUT`. -/
theorem completePad_storedExactly (sel : PasswordSel) (s : State) :
    storedExactly s (completePad sel s).finish 0x0140 (padPassword (s.password sel)) := fun x =>
  (State.cell_finish _ x).trans (completePad_cell sel s x)

/-- Settles O14: the bytes stored are the padded password. Each row of the statement's table names a selector's own buffer
and the at most 32 bytes used of it (R33), so `padPassword_bytesAt` applies to both. -/
theorem padCompletes : Obligations.PadCompletes := by
  intro s sel hb
  refine ⟨(completePad sel s).finish, padPassword (s.password sel), exec_busy hb, length_padPassword _,
    fun base n hrow => ?_, completePad_storedExactly sel s, ?_⟩
  · obtain hrow | hrow := List.mem_pair.1 hrow <;> cases hrow
    · exact padPassword_bytesAt s Buf.upw.base (Nat.min_le_right ..)
    · exact padPassword_bytesAt s Buf.opw.base (Nat.min_le_right ..)
  · rw [completePad_eq]
    rfl

end Sys2Proof.Machine
end

section
/-! The key derivation engine (43_kdf.md): the three values by their rules, and the commands `DERIVE_OWNER`,
`DERIVE_FKEY` and `DERIVE_USER`. -/

namespace Sys2Proof.Machine

/-! ### The key of a pass (R210) -/

theorem xorKey_zero (base : List Byte) : xorKey base 0 = base := by
  simp [xorKey]

theorem getElem?_xorKey {base : List Byte} {t : Nat} {b : Byte} (h : base[t]? = some b) (k : Byte) :
    (xorKey base k)[t]? = some (b ^^^ k) := by
  rw [xorKey, List.getElem?_map, h]
  rfl

/-- Settles O28, clause by clause; the rule's example is computed. -/
theorem xorKeyXorsEveryByte : Obligations.XorKeyXorsEveryByte := fun base k =>
  ⟨length_xorKey base k, fun _ _ h => getElem?_xorKey h k, xorKey_zero base, by decide⟩

/-! ### The digests of a derivation (R211, R212) -/

/-- A re-digest of a digest cuts nothing off: `n` of them are `n` more digests. -/
theorem redigest_md5 (n : Nat) (m : List Byte) : redigest n (md5 m) = md5^[n + 1] m := by
  induction n with
  | zero => rfl
  | succ n ih => rw [redigest_succ n (length_md5 m), ih, Function.iterate_succ_apply' md5 (n + 1)]

/-! ### The passwords (R211, R33) -/

theorem effectivePassword_eq (opw upw : List Byte) : effectivePassword opw upw = if opw = [] then upw else opw := by
  cases opw <;> rfl

/-- Cutting both passwords cuts the effective one: a cut at one byte or more empties no password. -/
theorem effectivePassword_take (opw upw : List Byte) (n : Nat) :
    effectivePassword (opw.take (n + 1)) (upw.take (n + 1)) = (effectivePassword opw upw).take (n + 1) := by
  cases opw <;> rfl

/-- Only 32 bytes of a password are used. -/
theorem padPassword_take_32 (p : List Byte) : padPassword (p.take 32) = padPassword p := by
  obtain h | h := Nat.le_total p.length 32
  · rw [List.take_of_length_le h]
  · rw [padPassword_of_ge h, padPassword_of_ge (List.length_take_of_le h).ge, List.take_take, Nat.min_self]

/-! ### The three values by their rules (R211 to R214) -/

/-- The base key is 51 digests of the padded effective password. -/
theorem ownerBaseKey_eq (opw upw : List Byte) :
    ownerBaseKey opw upw = md5^[51] (padPassword (if opw = [] then upw else opw)) := by
  rw [ownerBaseKey, redigest_md5, effectivePassword_eq]

theorem ownerBaseKey_take_32 (opw upw : List Byte) :
    ownerBaseKey (opw.take 32) (upw.take 32) = ownerBaseKey opw upw := by
  rw [ownerBaseKey, effectivePassword_take, padPassword_take_32, ownerBaseKey]

theorem deriveOwnerValue_take_32 (opw upw : List Byte) :
    deriveOwnerValue (opw.take 32) (upw.take 32) = deriveOwnerValue opw upw := by
  rw [deriveOwnerValue, ownerBaseKey_take_32, padPassword_take_32, deriveOwnerValue]

/-- With no owner password the user's is the effective one, as it is where it stands for both. -/
theorem deriveOwnerValue_nil (upw : List Byte) : deriveOwnerValue [] upw = deriveOwnerValue upw upw := by
  rw [deriveOwnerValue, deriveOwnerValue, ownerBaseKey_eq, ownerBaseKey_eq, if_pos rfl, ite_self]

/-- Settles O29: the base key is 51 digests, and the passwords enter the value through `padPassword` alone. -/
theorem ownerValueByItsRule : Obligations.OwnerValueByItsRule := by
  intro opw upw
  refine ⟨?_, length_deriveOwnerValue opw upw, deriveOwnerValue_take_32 opw upw, deriveOwnerValue_nil upw⟩
  rw [deriveOwnerValue, ownerBaseKey_eq, cipherPasses]

/-- Settles O30: the last digest has 16 bytes, so returning its first 16 returns all of it. -/
theorem fileKeyByItsRule : Obligations.FileKeyByItsRule := by
  intro upw oval fid perm
  refine ⟨?_, length_deriveFileKey upw oval perm fid⟩
  rw [deriveFileKey, List.take_of_length_le (length_redigest _ _ (length_md5 _)).le, redigest_md5, bytesLe_word]

/-- Pass 0 is keyed with the base key itself (R213), passes 1 to `n` with the XORed keys. -/
theorem cipherPasses_succ_left (base : List Byte) (n : Nat) (v : List Byte) :
    cipherPasses base (n + 1) v =
      (List.range' 1 n).foldl (fun v k => rc4 (xorKey base (BitVec.ofNat 8 k)) v) (rc4 base v) := by
  have hkey : xorKey base (BitVec.ofNat 8 0) = base := xorKey_zero base
  rw [cipherPasses, List.range_eq_range', List.range'_succ, List.foldl_cons, hkey]

/-- The zero bytes stand behind the 16 ciphered ones. -/
theorem deriveUserValue_drop (fkey fid : List Byte) : (deriveUserValue fkey fid).drop 16 = zeros 16 :=
  List.drop_left' (length_userValueHead fkey fid)

/-- Settles O31: of the 20 passes the first is set apart (`cipherPasses_succ_left`). -/
theorem userValueByItsRule : Obligations.UserValueByItsRule := by
  intro fkey fid
  refine ⟨?_, length_deriveUserValue fkey fid, deriveUserValue_drop fkey fid, length_xorKey fkey⟩
  rw [deriveUserValue, userValueHead, cipherPasses_succ_left]

/-! ### The command `DERIVE_OWNER` (R216) -/

/-- What the command stores where both passwords were written (R325). -/
theorem State.newOwnerValue_of_allWritten {s : State} (ho : allWritten s Buf.opw.base (min s.opwlen.toNat 32))
    (hu : allWritten s Buf.upw.base (min s.upwlen.toNat 32)) :
    s.newOwnerValue = deriveOwnerValue s.ownerPassword s.userPassword := by
  rw [State.newOwnerValue, State.effectivePasswordWritten_of (bufferWritten_of ho) (bufferWritten_of hu),
    resultBytes_of_written]

/-- The one buffer `DERIVE_OWNER` writes is `OVAL`. -/
theorem completeDeriveOwner_storedExactly (s : State) :
    storedExactly s (completeDeriveOwner s).finish 0x00C0 s.newOwnerValue := fun x =>
  (State.cell_finish _ x).trans (completeDeriveOwner_cell s x)

/-- Settles O15: the completion stores the new Owner value in `OVAL`. -/
theorem deriveOwnerCompletes : Obligations.DeriveOwnerCompletes := by
  intro s hb
  refine ⟨(completeDeriveOwner s).finish, s.newOwnerValue, exec_busy hb, length_newOwnerValue s,
    State.newOwnerValue_of_allWritten, completeDeriveOwner_storedExactly s, ?_⟩
  rw [completeDeriveOwner_eq]
  rfl

/-! ### The command `DERIVE_FKEY` (R217) -/

/-- What the command stores where the user password, `OVAL` and the file identifier were written (R325). -/
theorem State.newFileKey_of_allWritten {s : State} (hu : allWritten s Buf.upw.base (min s.upwlen.toNat 32))
    (ho : allWritten s Buf.oval.base 32) (hf : allWritten s Buf.fid.base s.fidlen.toNat) :
    s.newFileKey = deriveFileKey s.userPassword s.ownerValue s.perm s.fileId := by
  have hw : (s.userPasswordWritten && s.ownerValueWritten && s.fileIdWritten) = true :=
    Bool.and_eq_true_iff.2 ⟨Bool.and_eq_true_iff.2 ⟨bufferWritten_of hu, bufferWritten_of ho⟩, bufferWritten_of hf⟩
  rw [State.newFileKey, hw, resultBytes_of_written]

/-- The one buffer `DERIVE_FKEY` writes is `FKEY`. -/
theorem completeDeriveFkey_storedExactly (s : State) :
    storedExactly s (completeDeriveFkey s).finish 0x0100 s.newFileKey := fun x =>
  (State.cell_finish _ x).trans (completeDeriveFkey_cell s x)

/-- Settles O16: the completion stores the new file key in `FKEY`. -/
theorem deriveFkeyCompletes : Obligations.DeriveFkeyCompletes := by
  intro s hb _
  refine ⟨(completeDeriveFkey s).finish, s.newFileKey, exec_busy hb, length_newFileKey s,
    State.newFileKey_of_allWritten, completeDeriveFkey_storedExactly s, ?_⟩
  rw [completeDeriveFkey_eq]
  rfl

/-! ### The command `DERIVE_USER` (R218) -/

/-- What the command stores where the file key and the file identifier were written (R325). -/
theorem State.newUserValue_of_allWritten {s : State} (hk : allWritten s Buf.fkey.base s.fklen.toNat)
    (hf : allWritten s Buf.fid.base s.fidlen.toNat) : s.newUserValue = deriveUserValue s.fileKey s.fileId := by
  have hw : (s.fileKeyWritten && s.fileIdWritten) = true :=
    Bool.and_eq_true_iff.2 ⟨bufferWritten_of hk, bufferWritten_of hf⟩
  rw [State.newUserValue, hw, resultBytes_of_written, deriveUserValue]

/-- The last 16 bytes are zero whatever was written: only the first 16 can be free (R325). -/
theorem State.newUserValue_drop (s : State) : s.newUserValue.drop 16 = zeros 16 :=
  List.drop_left' ((length_resultBytes ..).trans (length_userValueHead ..))

/-- The one buffer `DERIVE_USER` writes is `UVAL`. -/
theorem completeDeriveUser_storedExactly (s : State) :
    storedExactly s (completeDeriveUser s).finish 0x00E0 s.newUserValue := fun x =>
  (State.cell_finish _ x).trans (completeDeriveUser_cell s x)

/-- Settles O17: the completion stores the new User value in `UVAL`. -/
theorem deriveUserCompletes : Obligations.DeriveUserCompletes := by
  intro s hb _ _ _
  refine ⟨(completeDeriveUser s).finish, s.newUserValue, exec_busy hb, length_newUserValue s, s.newUserValue_drop,
    State.newUserValue_of_allWritten, completeDeriveUser_storedExactly s, ?_⟩
  rw [completeDeriveUser_eq]
  rfl

end Sys2Proof.Machine
end

section
/-! The per-object key (44_objkey.md): its rule, and the commands `OBJKEY` and `ENC_OBJ`. -/

namespace Sys2Proof.Machine

/-! ### The key by its rule (R240, R244) -/

/-- The three bytes of an object number, low byte first (R12). -/
theorem bytesLe_three (v : Nat) :
    bytesLe v 3 = [BitVec.ofNat 8 v, BitVec.ofNat 8 (v / 256), BitVec.ofNat 8 (v / 65536)] := by
  simp [bytesLe, List.range_succ]

/-- The two bytes of a generation number, low byte first (R12). -/
theorem bytesLe_two (v : Nat) : bytesLe v 2 = [BitVec.ofNat 8 v, BitVec.ofNat 8 (v / 256)] := by
  simp [bytesLe, List.range_succ]

/-- Object addresses that agree in the bits their bytes hold give the same key. -/
theorem objectKey_congr {obj obj' gen gen' : Nat} (ho : obj % 2 ^ 24 = obj' % 2 ^ 24) (hg : gen % 2 ^ 16 = gen' % 2 ^ 16)
    (fkey : List Byte) : objectKey fkey obj gen = objectKey fkey obj' gen' := by
  have hobj : bytesLe obj 3 = bytesLe obj' 3 := bytesLe_congr ho
  have hgen : bytesLe gen 2 = bytesLe gen' 2 := bytesLe_congr hg
  rw [objectKey, objectKey, hobj, hgen]

/-- Settles O32: the address enters the key as three and two bytes. -/
theorem objectKeyLengthAndAddressBits : Obligations.ObjectKeyLengthAndAddressBits := by
  intro fkey obj gen obj' gen'
  refine ⟨?_, length_objectKey fkey obj gen, fun ho hg => objectKey_congr ho hg fkey⟩
  rw [objectKey, bytesLe_three, bytesLe_two, List.append_assoc]
  rfl

/-! ### The command `OBJKEY` (R242) -/

/-- What the commands store as the key where the file key was written (R325). -/
theorem State.newObjectKey_of_allWritten {s : State} (h : allWritten s Buf.fkey.base s.fklen.toNat) :
    s.newObjectKey = s.currentObjectKey := resultBytes_of_allWritten h .okey _

/-- The key and the zeros behind it fill `OKEY`. -/
theorem length_newObjectKey_zeros (s : State) :
    (s.newObjectKey ++ zeros (16 - min (s.fklen.toNat + 5) 16)).length = 16 := by
  rw [List.length_append, State.length_newObjectKey, length_zeros]
  omega

/-- The one buffer `OBJKEY` writes is `OKEY`. -/
theorem completeObjkey_storedExactly (s : State) : storedExactly s (completeObjkey s).finish 0x0110
    (s.newObjectKey ++ zeros (16 - min (s.fklen.toNat + 5) 16)) := by
  intro x
  rw [State.cell_finish, completeObjkey_cell, State.length_newObjectKey]
  rfl

/-- Settles O18: the completion stores the new key in `OKEY`. -/
theorem objkeyCompletes : Obligations.ObjkeyCompletes := by
  intro s hb _ _
  refine ⟨(completeObjkey s).finish, s.newObjectKey, exec_busy hb, s.length_newObjectKey,
    State.newObjectKey_of_allWritten, completeObjkey_storedExactly s, ?_⟩
  rw [completeObjkey_eq, State.length_newObjectKey]
  rfl

/-! ### The command `ENC_OBJ` (R243) -/

/-- The payload stored where the file key was written (R241, R325). -/
theorem State.encryptedMessage_of_allWritten {s : State} (h : allWritten s Buf.fkey.base s.fklen.toNat) :
    s.encryptedMessage = encryptPayload s.message s.fileKey s.objnum.toNat s.gennum.toNat :=
  resultBytes_of_allWritten h .msg _

/-- The cipher state at the end of the payload where the file key was written: that of the key the command stores. -/
theorem State.payloadCipher_of_allWritten {s : State} (h : allWritten s Buf.fkey.base s.fklen.toNat) :
    s.payloadCipher = (cipherProcess (keySchedule s.newObjectKey) s.message).1 := by
  rw [State.newObjectKey_of_allWritten h]
  exact if_pos (State.bufferWritten_of h)

/-- The buffers `ENC_OBJ` writes are `OKEY`, as `OBJKEY` does, and `MSG`, which lies above it (R84). -/
theorem completeEncObj_finish_cell (s : State) (x : Nat) : (completeEncObj s).finish.cell x =
    if 0x0110 ≤ x ∧ x < 0x0120 then (s.newObjectKey ++ zeros (16 - min (s.fklen.toNat + 5) 16))[x - 0x0110]?
    else if 0x1000 ≤ x ∧ x < 0x1000 + s.mlen.toNat then s.encryptedMessage[x - 0x1000]?
    else s.cell x := by
  have hokey := completeObjkey_storedExactly s x
  rw [State.cell_finish, length_newObjectKey_zeros] at hokey
  rw [State.cell_finish, completeEncObj_cell, hokey]
  by_cases hx : 0x0110 ≤ x ∧ x < 0x0120
  · rw [if_pos hx, if_pos hx, if_neg (by simp only [Buf.base]; omega)]
  · rw [if_neg hx, if_neg hx]
    rfl

/-- Settles O19: the completion stores the key of `OBJKEY` and the encrypted payload, and leaves the cipher at its end. -/
theorem encObjCompletes : Obligations.EncObjCompletes := by
  intro s hb _ _ _
  refine ⟨(completeEncObj s).finish, s.newObjectKey, s.encryptedMessage, exec_busy hb, s.length_newObjectKey,
    s.length_encryptedMessage, fun hw => ⟨State.newObjectKey_of_allWritten hw, fun k _ => ?_,
      State.payloadCipher_of_allWritten hw⟩,
    payloadCipher_perm s, payloadCipher_i s, completeEncObj_finish_cell s, ?_⟩
  · rw [State.encryptedMessage_of_allWritten hw]
    rfl
  · rw [completeEncObj_eq, completeObjkey_eq, State.length_newObjectKey]
    rfl

end Sys2Proof.Machine
end

section
/-! The life of a command (45_sequencer.md): what a submission writes, the completion of `NOP`, and that the core never
stops and a busy core becomes idle. -/

namespace Sys2Proof.Machine

/-! ### Submission (R260 to R262) -/

/-- A `CMD` write while idle submits its word, whether the word is legal or not (R260). -/
theorem step_cmd_write {s : State} {rest : List Event} {w : Word} (h : s.events = .write 0x0000 w :: rest)
    (hb : s.busy = false) : step s = submit w (s.turn rest).nextDraw :=
  (step_write h).trans (hostWrite_cmd_idle (s := (s.turn rest).nextDraw) hb w)

/-- Taking a write event leaves the registers the checks read (R285). -/
theorem submissionError_turn_nextDraw (s : State) (rest : List Event) (i : Instr) :
    (s.turn rest).nextDraw.submissionError i = s.submissionError i :=
  submissionError_congr rfl rfl rfl rfl rfl rfl i

theorem submit_accepts {s : State} {w : Word} {i : Instr} (hb : s.busy = false) (hd : decode w = .ok i)
    (hc : s.submissionError i = none) : submit w s = .next (s.accept w) := by
  simp only [submit, hd]
  rw [exec_eq_runCommand, runCommand_accepts hb hc, encode_of_decode hd]

theorem submit_illegal {s : State} {w : Word} {r : DecodeError} (hd : decode w = .error r) :
    submit w s = .next (s.raise .opcode) := by
  simp only [submit, hd]

theorem submit_rejects {s : State} {w : Word} {i : Instr} {e : Error} (hb : s.busy = false) (hd : decode w = .ok i)
    (hc : s.submissionError i = some e) : submit w s = .next (s.raise e) := by
  simp only [submit, hd]
  rw [exec_eq_runCommand, runCommand_rejects hb hc]

/-- Settles O6: the word written is the command's own word, and `accept` is the four writes. -/
theorem acceptanceWritesOnlyTheCommand : Obligations.AcceptanceWritesOnlyTheCommand := by
  intro s w i rest h hb hd hc
  rw [step_cmd_write h hb,
    submit_accepts (s := (s.turn rest).nextDraw) hb hd ((submissionError_turn_nextDraw s rest i).trans hc)]
  rfl

/-- Settles O8: an illegal word and a failing check both end in `raise`, which keeps the first error (R283). -/
theorem rejectionWritesOnlyTheErrorFlags : Obligations.RejectionWritesOnlyTheErrorFlags := by
  intro s w rest e h hb hrej
  have hsub : submit w (s.turn rest).nextDraw = .next ((s.turn rest).nextDraw.raise e) := by
    rcases hrej with ⟨⟨r, hd⟩, rfl⟩ | ⟨i, hd, hc⟩
    · exact submit_illegal hd
    · exact submit_rejects hb hd ((submissionError_turn_nextDraw s rest i).trans hc)
  rw [step_cmd_write h hb, hsub, State.raise_eq]
  rfl

/-! ### Completion (R263 to R265) -/

/-- Settles O10: `NOP` writes nothing of its own, so its completion is `finish` alone. -/
theorem nopCompletes : Obligations.NopCompletes := by
  intro s hb
  exact ⟨s.finish, exec_busy hb, rfl⟩

/-- The turn of the core cannot fail: while busy `PENDING` is `CMD`, which decodes (R35, R56). -/
theorem coreTurn_goes_on {s : State} (h : s.Inv) : ∃ t, coreTurn s = .next t := by
  rcases coreTurn_cases s with ⟨_, e⟩ | ⟨_, _, _, e⟩ | ⟨_, hb, hd, _⟩
  · exact ⟨_, e⟩
  · exact ⟨_, e⟩
  · obtain ⟨i, hi⟩ := h.cmdLegal
    rw [h.busyPending hb, hi] at hd
    cases hd

/-- Settles O52, by the next event: only the core's turn could fail. -/
theorem invariantStatesNeverStop : Obligations.InvariantStatesNeverStop := by
  intro s h
  rcases he : s.events with _ | ⟨e, rest⟩
  · rw [step_nil he]
    exact coreTurn_goes_on (inv_turn h [])
  · cases e with
    | core =>
      rw [step_core he]
      exact coreTurn_goes_on (inv_turn h rest)
    | read a => exact ⟨_, step_read he⟩
    | write a v =>
      rw [step_write he]
      exact hostWrite_goes_on a v _
    | reset => exact ⟨_, step_reset he⟩

/-- After its turn the core is idle: it waited or completed its command (R263, R299). -/
theorem coreTurn_idle {s t : State} (h : coreTurn s = .next t) : t.busy = false := by
  rcases coreTurn_cases s with ⟨hb, e⟩ | ⟨_, _, _, e⟩ | ⟨_, _, _, e⟩ <;> rw [e] at h <;> cases h
  · exact hb
  · rfl

/-! ### A busy core becomes idle (R264) -/

/-- A read leaves the events still to come (R85). -/
theorem hostRead_events (a : PortAddr) (s : State) : (hostRead a s).events = s.events := by
  rw [hostRead_frame_errors]

/-- A write leaves the events still to come (R86). -/
theorem hostWrite_events {a : PortAddr} {v : Word} {s t : State} (h : hostWrite a v s = .next t) :
    t.events = s.events := by
  rcases hostWrite_next h with ⟨_, rfl⟩ | ⟨_, rfl⟩ | rfl | rfl | ⟨_, _, rfl⟩ | ⟨_, _, _, _, _, rfl⟩ |
    ⟨_, _, _, _, _, rfl⟩ <;> simp

theorem State.coreNext.tail {s : State} {rest : List Event} (h : s.coreNext rest) : s.events.tail = rest := by
  rcases h with e | ⟨e, rfl⟩ <;> rw [e] <;> rfl

/-- A step takes the next event away and leaves the others (R94). -/
theorem step_events {s t : State} (h : step s = .next t) : t.events = s.events.tail := by
  rcases step_next h with ⟨rest, hc, _, rfl⟩ | ⟨i, rest, hc, _, _, rfl⟩ | ⟨a, rest, he, rfl⟩ | ⟨rest, he, rfl⟩ |
    ⟨a, v, rest, he, hw⟩
  · exact hc.tail.symm
  · rw [State.finish_events, completion_events, State.turn_events, hc.tail]
  · rw [hostRead_events, State.turn_events, he, List.tail_cons]
  · rw [State.resetEvent_events, State.turn_events, he, List.tail_cons]
  · rw [hostWrite_events hw, State.nextDraw_events, State.turn_events, he, List.tail_cons]

/-- A run of any core whose first step goes on is that step and the rest of the run. -/
theorem run_succ_of_next {M : Host.Core} {s u : M.State} (h : M.step s = .next u) (n : Nat) :
    M.run (n + 1) s = M.run n u := by
  rw [Host.Core.run, h]

theorem runsTo_succ {n : Nat} {s u t : State} (h : step s = .next u) (hr : runsTo n u t) : runsTo (n + 1) s t :=
  (run_succ_of_next (M := core) h n).trans hr

/-- From a state that meets the invariant the core is idle one step after the last event given: each step takes an event
away, and with none left the core has its turn. -/
theorem runsTo_idle {es : List Event} : ∀ {s : State}, s.Inv → s.events = es →
    ∃ t, runsTo (es.length + 1) s t ∧ t.busy = false := by
  induction es with
  | nil =>
    intro s h he
    obtain ⟨t, ht⟩ := invariantStatesNeverStop s h
    exact ⟨t, runsTo_succ ht rfl, coreTurn_idle ((step_nil he).symm.trans ht)⟩
  | cons e rest ih =>
    intro s h he
    obtain ⟨u, hu⟩ := invariantStatesNeverStop s h
    obtain ⟨t, hr, ht⟩ := ih (stepKeepsTheInvariant s u h hu) ((step_events hu).trans (by rw [he, List.tail_cons]))
    exact ⟨t, runsTo_succ hu hr, ht⟩

/-- Settles O53: the run through all the events given and one step more ends idle. -/
theorem busyCoreBecomesIdle : Obligations.BusyCoreBecomesIdle := by
  intro s h _
  obtain ⟨t, hr, ht⟩ := runsTo_idle h rfl
  exact ⟨s.events.length + 1, t, le_rfl, hr, ht⟩

end Sys2Proof.Machine
end

section
/-! Errors (60_exceptions.md): the checks of a `CMD` write in their order, the first error kept, and the idle core that
waits. -/

namespace Sys2Proof.Machine

/-! ### The idle core (R299) -/

theorem coreTurn_waits {s : State} (hb : s.busy = false) : coreTurn s = .next s := by
  simp only [coreTurn, hb, Bool.false_eq_true, if_false]

/-- Settles O5: the event is the core's turn, and an idle core waits. -/
theorem idleCoreOnlyWaits : Obligations.IdleCoreOnlyWaits := by
  intro s rest h hb
  exact (step_coreNext h).trans (coreTurn_waits (s := s.turn rest) hb)

/-! ### The first error is kept (R283, R287) -/

/-- A read leaves an error that stands (R283, R85). -/
theorem hostRead_keeps_error (a : PortAddr) {s : State} (h : s.err = true) :
    (hostRead a s).err = true ∧ (hostRead a s).errcode = s.errcode := by
  rcases hostRead_cases a s with ⟨_, e⟩ | ⟨_, _, _, e⟩ | ⟨_, _, _, _, e⟩ <;> rw [e]
  · rw [State.raise_of_set h]
    exact ⟨h, rfl⟩
  · exact ⟨h, rfl⟩
  · exact ⟨h, rfl⟩

/-- A write leaves an error that stands, but for one of a word with bit 2 set to `STATUS`, which clears it (R283, R287). -/
theorem hostWrite_error {a : PortAddr} {v : Word} {s t : State} (hs : s.err = true) (h : hostWrite a v s = .next t) :
    (t.err = true ∧ t.errcode = s.errcode) ∨
    (t.err = false ∧ t.errcode = 0 ∧ a = 0x0004 ∧ v.getLsbD 2 = true) := by
  rcases hostWrite_next h with ⟨e, rfl⟩ | ⟨ha, rfl⟩ | rfl | rfl | ⟨_, _, rfl⟩ | ⟨_, _, _, _, _, rfl⟩ |
    ⟨_, _, _, _, _, rfl⟩
  case inr.inl =>
    rw [State.writeStatus_err, State.writeStatus_errcode]
    cases v.getLsbD 2 with
    | true => exact .inr ⟨rfl, rfl, ha, rfl⟩
    | false => exact .inl ⟨hs, rfl⟩
  all_goals exact .inl (by simp [hs])

/-- Settles O57, from every way a step can go: only the reset event and a write to `STATUS` touch an error that stands. -/
theorem firstErrorIsKept : Obligations.FirstErrorIsKept := by
  intro s t hs h
  rcases step_next h with ⟨rest, _, _, rfl⟩ | ⟨i, rest, _, _, _, rfl⟩ | ⟨a, rest, _, rfl⟩ | ⟨rest, he, rfl⟩ |
    ⟨a, v, rest, he, hw⟩
  · exact .inl ⟨hs, rfl⟩
  · exact .inl (by simp [hs])
  · exact .inl (hostRead_keeps_error (s := s.turn rest) a hs)
  · exact .inr ⟨rfl, rfl, .inl ⟨rest, he⟩⟩
  · rcases hostWrite_error (s := (s.turn rest).nextDraw) hs hw with hkept | ⟨herr, hcode, rfl, hv⟩
    · exact .inl hkept
    · exact .inr ⟨herr, hcode, .inr ⟨v, rest, he, hv⟩⟩

/-! ### The checks of a `CMD` write in their order (R285) -/

theorem Error.code_ne_zero (e : Error) : e.code ≠ 0 := by cases e <;> decide

/-- The legal words are the words of the commands (R111). -/
theorem encode_mem_legalWords (i : Instr) : encode i ∈ legalWords := by
  cases i
  case pad sel => cases sel <;> decide
  all_goals decide

/-- Each legal word decodes (R118). -/
theorem decode_of_mem_legalWords : ∀ w ∈ legalWords, ∃ i, decode w = .ok i := by
  simp only [legalWords, List.forall_mem_cons, List.not_mem_nil, false_implies, implies_true, and_true]
  obtain ⟨h0, h1, h2, h3, h4, h5, h6, h7, h8, h9, h10⟩ := specWordsDecode
  exact ⟨⟨_, h0⟩, ⟨_, h1⟩, ⟨_, h2⟩, ⟨_, h3⟩, ⟨_, h4⟩, ⟨_, h5⟩, ⟨_, h6⟩, ⟨_, h7⟩, ⟨_, h8⟩, ⟨_, h9⟩, ⟨_, h10⟩⟩

theorem submissionCode_busy {s : State} (hb : s.busy = true) (w : Word) : submissionCode s w = Error.busy.code :=
  if_pos hb

theorem submissionCode_illegal {s : State} {w : Word} {r : DecodeError} (hb : s.busy = false)
    (hd : decode w = .error r) : submissionCode s w = Error.opcode.code := by
  have hw : w ∉ legalWords := fun hmem => by
    obtain ⟨i, hi⟩ := decode_of_mem_legalWords w hmem
    rw [hi] at hd
    cases hd
  simp [submissionCode, hb, hw, Error.code]

/-- The key-length check on `KLEN`, in the form R285 writes it over the register. -/
theorem State.cipherKeyLengthError_eq (s : State) :
    s.cipherKeyLengthError = if s.klen = 0 ∨ s.klen.toNat > 256 then some .keylen else none := by
  have hzero : s.klen.toNat = 0 ↔ s.klen = 0 := BitVec.toNat_inj (y := 0)
  simp only [State.cipherKeyLengthError, hzero]

theorem State.noCipherError_eq (s : State) :
    s.noCipherError = if s.cvalid = false then some .nocipher else none := by
  cases h : s.cvalid <;> simp [State.noCipherError, h]

/-- The code of a single check. -/
theorem errorCode_ite (p : Prop) [Decidable p] (e : Error) :
    (if p then some e else none).elim 0#4 Error.code = if p then e.code else 0#4 := by
  split <;> rfl

/-- The code of a check and the checks after it. -/
theorem errorCode_or (p : Prop) [Decidable p] (e : Error) (o : Option Error) :
    ((if p then some e else none).or o).elim 0#4 Error.code = if p then e.code else o.elim 0#4 Error.code := by
  split <;> rfl

/-- Of a command's own word while idle, the code is that of the command's first failing check: in each line of R285 the
word says whether the command has the check, and the lines stand in the order of the command's checks. -/
theorem submissionCode_encode {s : State} (hb : s.busy = false) (i : Instr) :
    submissionCode s (encode i) = (s.submissionError i).elim 0 Error.code := by
  rw [submissionCode, if_neg (by simp [hb]), if_neg (not_not.2 (encode_mem_legalWords i))]
  cases i
  case nop | deriveOwner => rfl
  case pad sel => cases sel <;> rfl
  all_goals
    simp [encode, State.submissionError, State.messageLengthError, State.fileIdLengthError,
      State.cipherKeyLengthError_eq, State.fileKeyLengthError, State.noCipherError_eq, errorCode_ite, errorCode_or, Error.code]

/-- A `CMD` write is accepted when no check of R285 fails, and else raises the error of the first that does. -/
theorem step_cmd_write_outcome {s : State} {rest : List Event} {w : Word} (h : s.events = .write 0x0000 w :: rest) :
    (submissionCode s w = 0 ∧ step s = .next ((s.turn rest).nextDraw.accept w)) ∨
    ∃ e : Error, submissionCode s w = e.code ∧ step s = .next ((s.turn rest).nextDraw.raise e) := by
  cases hb : s.busy with
  | true =>
    refine .inr ⟨.busy, submissionCode_busy hb w, (step_write h).trans ?_⟩
    exact hostWrite_busy_idleOnly (s := (s.turn rest).nextDraw) (locate_cmd s.params) rfl (by decide) (by decide) hb w
  | false =>
    rw [step_cmd_write h hb]
    cases hd : decode w with
    | error r => exact .inr ⟨.opcode, submissionCode_illegal hb hd, submit_illegal hd⟩
    | ok i =>
      have hcode := encode_of_decode hd ▸ submissionCode_encode hb i
      have hturn := submissionError_turn_nextDraw s rest i
      cases hc : s.submissionError i with
      | none => exact .inl ⟨by rw [hcode, hc]; rfl, submit_accepts hb hd (hturn.trans hc)⟩
      | some e => exact .inr ⟨e, by rw [hcode, hc]; rfl, submit_rejects hb hd (hturn.trans hc)⟩

/-- Settles O9: an acceptance leaves the error flags, and `raise` records the code of the first failing check unless an
error stands already (R283). -/
theorem submissionChecksInOrder : Obligations.SubmissionChecksInOrder := by
  intro s w rest h
  rcases step_cmd_write_outcome h with ⟨hcode, e⟩ | ⟨err, hcode, e⟩
  · exact ⟨_, e, fun _ => ⟨rfl, rfl, rfl, rfl⟩, fun hne => absurd hcode hne⟩
  · refine ⟨_, e, fun h0 => absurd (hcode.symm.trans h0) err.code_ne_zero, fun _ => ?_⟩
    exact ⟨State.raise_busy _ _, State.raise_cmd _ _, State.raise_err _ _, hcode ▸ State.raise_errcode _ _⟩

end Sys2Proof.Machine
end

section
/-! Reset and unwritten bytes (70_reset_and_hazards.md): what a reset leaves in any state, and what a read of a buffer byte
finds. -/

namespace Sys2Proof.Machine

/-! ### Reset (R320, R321) -/

@[simp] theorem State.resetEvent_irq (s : State) : s.resetEvent.irq = false := by
  rw [State.irq, State.resetEvent_done, State.resetEvent_err, Bool.false_and, Bool.false_and, Bool.false_or]

/-- Settles O49: the step is the reset event, which takes every specified field from `State.reset`, whatever the state it
comes from, and draws only the engine state. -/
theorem resetEventFromAnyState : Obligations.ResetEventFromAnyState := fun s rest h =>
  ⟨(s.turn rest).resetEvent, step_reset h, State.resetEvent_irq _, rfl⟩

/-! ### Bytes a command reads (R325) -/

/-- Settles O20: byte `k` of those read is the byte at `a + k`, which is the cell where it was written and the free value
where it was not. -/
theorem operandBytesAreReadAsWritten : Obligations.OperandBytesAreReadAsWritten := by
  intro s a n k hk
  have hread := s.getElem?_bytesAt a n k hk
  refine ⟨fun b hb => ?_, fun hnone => ?_, s.length_bytesAt a n⟩
  · rw [hread, State.byteAt_of_cell hb]
  · rw [hread, State.byteAt_of_unwritten hnone]

end Sys2Proof.Machine
end
